-- ==== Sys2Proof/Word.lean ====
section
/-! DEFINITION. The word types of the core (rule R6): 16-bit words and addresses, 40-bit accumulators,
and the bytes the host's memory cells are made of. -/

namespace Sys2Proof

/-- `IW`, `DW` and `AW` of rule R6: an instruction word, a data word or a word address. -/
abbrev Word := BitVec 16

/-- `ACCW` of rule R6: a whole accumulator, 8 extension bits, 16 high bits, 16 low bits. -/
abbrev Wide := BitVec 40

/-- Half a memory word, the unit of `Host.Cell` (log 3). -/
abbrev Byte := BitVec 8

end Sys2Proof
end

