-- ==== Sys2Proof/Syntax.lean ====
section
/-! DEFINITION. The decoded opcodes of the sub011 instruction set, version 1: register names, addressing
modes, conditions, the parallel moves, and `Instr`, one constructor per row of spec/opcode_table.json
(log 4 says how a word that lies in a move row and in an instruction row is named). -/

namespace Sys2Proof

/-- The data registers, 2-bit code `jj` (rule R86). -/
inductive DataReg where
  | x0 | x1 | y0 | y1
deriving DecidableEq, Repr

/-- The accumulators, field `F` (rule R86). -/
inductive Acc where
  | a | b
deriving DecidableEq, Repr

/-- The address registers `R0..R3`, fields `RR` and `rr`; the offset register `Nn` has the same number
(rules R27, R28). -/
inductive AddrReg where
  | r0 | r1 | r2 | r3
deriving DecidableEq, Repr

/-- The 3-bit register codes 0 to 5 of the format P moves (rules R36, R84). -/
inductive MoveReg where
  | x0 | x1 | y0 | y1 | a | b
deriving DecidableEq, Repr

/-- The 5-bit register codes 0 to 22 (rule R36), in the order of their codes. -/
inductive Reg where
  | x0 | x1 | y0 | y1
  | a | b | a0 | b0 | a1 | b1 | a2 | b2
  | r0 | r1 | r2 | r3
  | n0 | n1 | n2 | n3
  | sr | lc | la
deriving DecidableEq, Repr

/-- The flags of `SR` (rule R30). -/
inductive Flag where
  | c | v | z | n | se
deriving DecidableEq, Repr

/-- The multiplier source pairs of the 3-bit field `qqq` (rules R86, R202), in the order of their codes. -/
inductive Pair where
  | x0y0 | x0y1 | x1y0 | x1y1 | x0x0 | y0y0 | x1x0 | y1y0
deriving DecidableEq, Repr

/-- The multiplier source pairs of the 2-bit field `qq` of format D (rules R86, R202). -/
inductive DualPair where
  | x0y0 | x0y1 | x1y0 | x1y1
deriving DecidableEq, Repr

/-- The conditions 0 to 14 of rule R241, in the order of their codes. -/
inductive Cond where
  | cc | cs | ne | eq | pl | mi | vc | vs | ge | lt | gt | le | hi | ls | al
deriving DecidableEq, Repr

/-- The one-word addressing modes 0 to 5 of rule R121, in the order of their codes: `(Rn)`, `(Rn)+`,
`(Rn)-`, `(Rn)+Nn`, `-(Rn)`, `(Rn+Nn)`. -/
inductive Mode where
  | indirect | postInc | postDec | postAdd | preDec | indexed
deriving DecidableEq, Repr

/-- The 2-bit addressing modes of the dual memory read (rule R88): modes 0 to 3. -/
inductive DualMode where
  | indirect | postInc | postDec | postAdd
deriving DecidableEq, Repr

/-- The address register of slot 1 of a dual memory read, field `a` (rule R88). -/
inductive Slot1Base where
  | r0 | r1
deriving DecidableEq, Repr

/-- The destination of slot 1 of a dual memory read, field `e` (rule R88). -/
inductive XReg where
  | x0 | x1
deriving DecidableEq, Repr

/-- The destination of slot 2 of a dual memory read, field `g` (rule R88). -/
inductive YReg where
  | y0 | y1
deriving DecidableEq, Repr

/-- The product sign, field `k` (rule R201). -/
inductive Sign where
  | plus | minus
deriving DecidableEq, Repr

/-- The move half of a format P opcode (rule R84). -/
inductive PMove where
  /-- R141: the empty move. -/
  | empty
  /-- R142: `MOVE S,D`. -/
  | regmove (src dst : MoveReg)
  /-- R143: `MOVE #xxxx,D`. -/
  | immload (imm : Word) (dst : MoveReg)
  /-- R144: `MOVE X:xxxx,D`. -/
  | absread (addr : Word) (dst : MoveReg)
  /-- R145: `MOVE S,X:xxxx`. -/
  | abswrite (src : MoveReg) (addr : Word)
  /-- R146: `MOVE X:(Rn)+,D`. -/
  | memread (rn : AddrReg) (dst : MoveReg)
  /-- R147: `MOVE S,X:(Rn)+`. -/
  | memwrite (src : MoveReg) (rn : AddrReg)
deriving DecidableEq, Repr

/-- The move half of a format D opcode (rules R88, R89). -/
inductive DMove where
  /-- R148: `MOVE X:<ea1>,D1 X:<ea2>,D2`, slot 2 always on `R3`. -/
  | dualread (base : Slot1Base) (mode1 : DualMode) (dst1 : XReg) (mode2 : DualMode) (dst2 : YReg)
  /-- R149: `MOVE S1,D1 S2,D2`. -/
  | dualreg (src1 dst1 : DataReg) (src2 : Acc) (dst2 : DataReg)
deriving DecidableEq, Repr

/-- A decoded opcode: exactly one parallel move and exactly one instruction (rules R260, R261).
A format P or D opcode is named by its instruction row and carries its move, except where its
operation bits are all zero (`NOP` in format P, `MPY` in format D): then it is named by its move row.
A format N opcode is named by its instruction; its move is the empty move (log 4). -/
inductive Instr where
  -- Format P, operation byte 00: a move shape with `NOP` (rules R84, R162).
  | empty
  | regmove (src dst : MoveReg)
  | immload (imm : Word) (dst : MoveReg)
  | absread (addr : Word) (dst : MoveReg)
  | abswrite (src : MoveReg) (addr : Word)
  | memread (rn : AddrReg) (dst : MoveReg)
  | memwrite (src : MoveReg) (rn : AddrReg)
  -- Format P, arithmetic-logic class (rule R85).
  | clr (m : PMove) (d : Acc)
  | tst (m : PMove) (d : Acc)
  | abs (m : PMove) (d : Acc)
  | neg (m : PMove) (d : Acc)
  | not (m : PMove) (d : Acc)
  | rnd (m : PMove) (d : Acc)
  | tfrAcc (m : PMove) (d : Acc)
  | asl (m : PMove) (d : Acc)
  | asr (m : PMove) (d : Acc)
  | lsl (m : PMove) (d : Acc)
  | lsr (m : PMove) (d : Acc)
  | rol (m : PMove) (d : Acc)
  | ror (m : PMove) (d : Acc)
  | inc (m : PMove) (d : Acc)
  | dec (m : PMove) (d : Acc)
  | add (m : PMove) (src : DataReg) (d : Acc)
  | addAcc (m : PMove) (d : Acc)
  | sub (m : PMove) (src : DataReg) (d : Acc)
  | subAcc (m : PMove) (d : Acc)
  | cmp (m : PMove) (src : DataReg) (d : Acc)
  | cmpAcc (m : PMove) (d : Acc)
  | and (m : PMove) (src : DataReg) (d : Acc)
  | tfrData (m : PMove) (src : DataReg) (d : Acc)
  | or (m : PMove) (src : DataReg) (d : Acc)
  | tfrAddr (m : PMove) (rn : AddrReg) (d : Acc)
  | eor (m : PMove) (src : DataReg) (d : Acc)
  -- Format P, multiply class (rule R85).
  | mpy (m : PMove) (k : Sign) (q : Pair) (d : Acc)
  | mpyr (m : PMove) (k : Sign) (q : Pair) (d : Acc)
  | mac (m : PMove) (k : Sign) (q : Pair) (d : Acc)
  | macr (m : PMove) (k : Sign) (q : Pair) (d : Acc)
  -- Format D, operation bits oo = 00: a dual move with `MPY` (rules R87 to R89, R204).
  | dualread (base : Slot1Base) (mode1 : DualMode) (dst1 : XReg) (mode2 : DualMode) (dst2 : YReg)
      (k : Sign) (q : DualPair) (d : Acc)
  | dualreg (src1 dst1 : DataReg) (src2 : Acc) (dst2 : DataReg) (k : Sign) (q : DualPair) (d : Acc)
  -- Format D, the other multiply operations, with either dual move (rule R87).
  | mpyrD (m : DMove) (k : Sign) (q : DualPair) (d : Acc)
  | macD (m : DMove) (k : Sign) (q : DualPair) (d : Acc)
  | macrD (m : DMove) (k : Sign) (q : DualPair) (d : Acc)
  -- Format N (rules R90 to R100).
  | nop
  | enddo
  | next
  | moveReg (src dst : Reg)
  | moveLoad (dst : Reg) (mode : Mode) (rn : AddrReg)
  | moveLoadDisp (dst : Reg) (rn : AddrReg) (disp : Word)
  | moveLoadAbs (dst : Reg) (addr : Word)
  | moveImm (dst : Reg) (imm : Word)
  | moveStore (src : Reg) (mode : Mode) (rn : AddrReg)
  | moveStoreDisp (src : Reg) (rn : AddrReg) (disp : Word)
  | moveStoreAbs (src : Reg) (addr : Word)
  | addi (imm : Word) (d : Acc)
  | subi (imm : Word) (d : Acc)
  | cmpi (imm : Word) (d : Acc)
  | andi (imm : Word) (d : Acc)
  | ori (imm : Word) (d : Acc)
  | eori (imm : Word) (d : Acc)
  | andc (imm : BitVec 8)
  | orc (imm : BitVec 8)
  | bccShort (cond : Cond) (disp : BitVec 6)
  | bccLong (cond : Cond) (disp : Word)
  | jccAbs (cond : Cond) (target : Word)
  | jccReg (cond : Cond) (rn : AddrReg)
  | doImm (count : BitVec 8)
  | doReg (src : Reg)
  | btstReg (bit : BitVec 4) (r : Reg)
  | btstMem (bit : BitVec 4) (rn : AddrReg)
  | bsetReg (bit : BitVec 4) (r : Reg)
  | bsetMem (bit : BitVec 4) (rn : AddrReg)
  | bclrReg (bit : BitVec 4) (r : Reg)
  | bclrMem (bit : BitVec 4) (rn : AddrReg)
  | bchgReg (bit : BitVec 4) (r : Reg)
  | bchgMem (bit : BitVec 4) (rn : AddrReg)
deriving DecidableEq, Repr

/-- The names of the three decode errors (rule R301). -/
inductive DecodeErrorName where
  /-- Code 1: the word matches no known instruction or move. -/
  | invalidOpcode
  /-- Code 2: the addressing-mode selector of a format `N` `MOVE` has no defined resolution. -/
  | addressingMode
  /-- Code 3: the opcode needs a second word that was not supplied. -/
  | incompleteFetch
deriving DecidableEq, Repr

/-- A decode error as the value handed to the host: its name, and the first word, which every error
carries (rule R301). -/
structure DecodeError where
  name : DecodeErrorName
  word0 : Word
deriving DecidableEq, Repr

end Sys2Proof
end

