-- ==== Sys2Proof/WellFormed.lean ====
section
/-! DEFINITION. Which terms of `Instr` are opcodes, that is, have a word of their own: the two
conditions of the encoding that the types of the fields do not carry. -/

namespace Sys2Proof

/-- Rule R84: `REGMOVE S,D` needs `S` and `D` different. -/
def PMove.wellFormed : PMove → Bool
  | .regmove src dst => src != dst
  | _ => true

/-- Rules R100 and R210: a bit instruction takes every register but the whole accumulators (codes 4
and 5) and `SR` (code 20). -/
def Reg.isBitOperand (r : Reg) : Bool :=
  r != .a && r != .b && r != .sr

/-- The well-formed opcodes: the values `decode` returns (rule R261; `decode` returns no other, an
obligation). `exec` is total on the other terms too, which no step reaches (log 12). -/
def Instr.wellFormed : Instr → Bool
  | .empty => true
  | .regmove src dst => (PMove.regmove src dst).wellFormed
  | .immload _ _ => true
  | .absread _ _ => true
  | .abswrite _ _ => true
  | .memread _ _ => true
  | .memwrite _ _ => true
  | .clr m _ => m.wellFormed
  | .tst m _ => m.wellFormed
  | .abs m _ => m.wellFormed
  | .neg m _ => m.wellFormed
  | .not m _ => m.wellFormed
  | .rnd m _ => m.wellFormed
  | .tfrAcc m _ => m.wellFormed
  | .asl m _ => m.wellFormed
  | .asr m _ => m.wellFormed
  | .lsl m _ => m.wellFormed
  | .lsr m _ => m.wellFormed
  | .rol m _ => m.wellFormed
  | .ror m _ => m.wellFormed
  | .inc m _ => m.wellFormed
  | .dec m _ => m.wellFormed
  | .add m _ _ => m.wellFormed
  | .addAcc m _ => m.wellFormed
  | .sub m _ _ => m.wellFormed
  | .subAcc m _ => m.wellFormed
  | .cmp m _ _ => m.wellFormed
  | .cmpAcc m _ => m.wellFormed
  | .and m _ _ => m.wellFormed
  | .tfrData m _ _ => m.wellFormed
  | .or m _ _ => m.wellFormed
  | .tfrAddr m _ _ => m.wellFormed
  | .eor m _ _ => m.wellFormed
  | .mpy m _ _ _ => m.wellFormed
  | .mpyr m _ _ _ => m.wellFormed
  | .mac m _ _ _ => m.wellFormed
  | .macr m _ _ _ => m.wellFormed
  | .dualread _ _ _ _ _ _ _ _ => true
  | .dualreg _ _ _ _ _ _ _ => true
  | .mpyrD _ _ _ _ => true
  | .macD _ _ _ _ => true
  | .macrD _ _ _ _ => true
  | .nop => true
  | .enddo => true
  | .next => true
  | .moveReg _ _ => true
  | .moveLoad _ _ _ => true
  | .moveLoadDisp _ _ _ => true
  | .moveLoadAbs _ _ => true
  | .moveImm _ _ => true
  | .moveStore _ _ _ => true
  | .moveStoreDisp _ _ _ => true
  | .moveStoreAbs _ _ => true
  | .addi _ _ => true
  | .subi _ _ => true
  | .cmpi _ _ => true
  | .andi _ _ => true
  | .ori _ _ => true
  | .eori _ _ => true
  | .andc _ => true
  | .orc _ => true
  | .bccShort _ _ => true
  | .bccLong _ _ => true
  | .jccAbs _ _ => true
  | .jccReg _ _ => true
  | .doImm _ => true
  | .doReg _ => true
  | .btstReg _ r => r.isBitOperand
  | .btstMem _ _ => true
  | .bsetReg _ r => r.isBitOperand
  | .bsetMem _ _ => true
  | .bclrReg _ r => r.isBitOperand
  | .bclrMem _ _ => true
  | .bchgReg _ r => r.isBitOperand
  | .bchgMem _ _ => true

end Sys2Proof
end

