-- ==== Sys2Proof/Decode.lean ====
section
/-! DEFINITION. The decoder (rules R80 to R104), total on every pair of words and rejecting by name
(rules R300 to R304), then the encoder written from the same tables, and the opcode's size (rules R82,
R262). -/

namespace Sys2Proof

/-! ## Field codes (rules R36, R84, R86, R88, R121, R241) -/

/-- Field `F`. -/
def accOf (f : Bool) : Acc := if f then .b else .a

/-- The sign bit `k`. -/
def signOf (k : Bool) : Sign := if k then .minus else .plus

/-- The 2-bit code `jj` of a data register. -/
def dataRegOf (j : BitVec 2) : DataReg :=
  match j.toNat with
  | 0 => .x0
  | 1 => .x1
  | 2 => .y0
  | _ => .y1

/-- The 2-bit number of an address register. -/
def addrRegOf (r : BitVec 2) : AddrReg :=
  match r.toNat with
  | 0 => .r0
  | 1 => .r1
  | 2 => .r2
  | _ => .r3

/-- The 3-bit register code of a format P move: 0 to 5 are registers, 6 and 7 are not (rule R36). -/
def moveRegOf (c : BitVec 3) : Option MoveReg :=
  match c.toNat with
  | 0 => some .x0
  | 1 => some .x1
  | 2 => some .y0
  | 3 => some .y1
  | 4 => some .a
  | 5 => some .b
  | _ => none

/-- The 5-bit register code: 23 to 31 are unassigned (rule R36). -/
def regOf (c : BitVec 5) : Option Reg :=
  match c.toNat with
  | 0 => some .x0
  | 1 => some .x1
  | 2 => some .y0
  | 3 => some .y1
  | 4 => some .a
  | 5 => some .b
  | 6 => some .a0
  | 7 => some .b0
  | 8 => some .a1
  | 9 => some .b1
  | 10 => some .a2
  | 11 => some .b2
  | 12 => some .r0
  | 13 => some .r1
  | 14 => some .r2
  | 15 => some .r3
  | 16 => some .n0
  | 17 => some .n1
  | 18 => some .n2
  | 19 => some .n3
  | 20 => some .sr
  | 21 => some .lc
  | 22 => some .la
  | _ => none

/-- The register operand of a bit instruction (rule R100): codes 4, 5, 20 and 23 to 31 are invalid. -/
def bitRegOf (c : BitVec 5) : Option Reg :=
  match regOf c with
  | some r => if r.isBitOperand then some r else none
  | none => none

/-- The source pair `qqq` (rule R86). -/
def pairOf (q : BitVec 3) : Pair :=
  match q.toNat with
  | 0 => .x0y0
  | 1 => .x0y1
  | 2 => .x1y0
  | 3 => .x1y1
  | 4 => .x0x0
  | 5 => .y0y0
  | 6 => .x1x0
  | _ => .y1y0

/-- The source pair `qq` of format D, which is `qqq = 0 qq` (rule R86). -/
def dualPairOf (q : BitVec 2) : DualPair :=
  match q.toNat with
  | 0 => .x0y0
  | 1 => .x0y1
  | 2 => .x1y0
  | _ => .x1y1

/-- The condition `cccc`; 15 is unassigned (rule R241). -/
def condOf (c : BitVec 4) : Option Cond :=
  match c.toNat with
  | 0 => some .cc
  | 1 => some .cs
  | 2 => some .ne
  | 3 => some .eq
  | 4 => some .pl
  | 5 => some .mi
  | 6 => some .vc
  | 7 => some .vs
  | 8 => some .ge
  | 9 => some .lt
  | 10 => some .gt
  | 11 => some .le
  | 12 => some .hi
  | 13 => some .ls
  | 14 => some .al
  | _ => none

/-- The modes 0 to 5 of `MMM` (rule R121); 6 and 7 have forms of their own. -/
def modeOf (m : BitVec 3) : Option Mode :=
  match m.toNat with
  | 0 => some .indirect
  | 1 => some .postInc
  | 2 => some .postDec
  | 3 => some .postAdd
  | 4 => some .preDec
  | 5 => some .indexed
  | _ => none

/-- The 2-bit modes of the dual read (rule R88). -/
def dualModeOf (m : BitVec 2) : DualMode :=
  match m.toNat with
  | 0 => .indirect
  | 1 => .postInc
  | 2 => .postDec
  | _ => .postAdd

/-- Field `a` of the dual read (rule R88). -/
def slot1BaseOf (a : Bool) : Slot1Base := if a then .r1 else .r0

/-- Field `e` of the dual read (rule R88). -/
def xRegOf (e : Bool) : XReg := if e then .x1 else .x0

/-- Field `g` of the dual read (rule R88). -/
def yRegOf (g : Bool) : YReg := if g then .y1 else .y0

/-! ## Format P (rules R83 to R85) -/

/-- R84: the move field `V = word0[14:8]`, with the extension word as its datum. -/
def decodeMove (v : BitVec 7) (word1 : Word) : Option PMove :=
  if v[6] then
    match moveRegOf (v.extractLsb' 0 3) with
    | some r =>
      if v[5] then some (.memwrite r (addrRegOf (v.extractLsb' 3 2)))
      else some (.memread (addrRegOf (v.extractLsb' 3 2)) r)
    | none => none
  else
    let sss := v.extractLsb' 3 3
    let ddd := v.extractLsb' 0 3
    if sss = 0 ∧ ddd = 0 then some .empty
    else
      match moveRegOf sss, moveRegOf ddd with
      | some src, some dst => if src = dst then none else some (.regmove src dst)
      | some src, none => if ddd = 6 then some (.abswrite src word1) else none
      | none, some dst => if sss = 6 then some (.immload word1 dst) else some (.absread word1 dst)
      | none, none => none

/-- A format P opcode whose instruction is `NOP` is named by its move (log 4). -/
def withNop : PMove → Instr
  | .empty => .empty
  | .regmove src dst => .regmove src dst
  | .immload imm dst => .immload imm dst
  | .absread addr dst => .absread addr dst
  | .abswrite src addr => .abswrite src addr
  | .memread rn dst => .memread rn dst
  | .memwrite src rn => .memwrite src rn

/-- R85, `OP[7] = 1`: the multiply class `1 k oo F qqq`. -/
def decodeMul (op : BitVec 8) : PMove → Instr :=
  let k := signOf op[6]
  let d := accOf op[3]
  let q := pairOf (op.extractLsb' 0 3)
  match (op.extractLsb' 4 2).toNat with
  | 0 => fun m => .mpy m k q d
  | 1 => fun m => .mpyr m k q d
  | 2 => fun m => .mac m k q d
  | _ => fun m => .macr m k q d

/-- R85, `OP[7] = 0`: the arithmetic-logic class `0 ggg F jjj`. -/
def decodeAlu (op : BitVec 8) : Option (PMove → Instr) :=
  let d := accOf op[3]
  let src := dataRegOf (op.extractLsb' 0 2)
  let rn := addrRegOf (op.extractLsb' 0 2)
  match (op.extractLsb' 4 3).toNat, (op.extractLsb' 0 3).toNat with
  | 0, 0 => if op[3] then none else some withNop
  | 0, 1 => some fun m => .clr m d
  | 0, 2 => some fun m => .tst m d
  | 0, 3 => some fun m => .abs m d
  | 0, 4 => some fun m => .neg m d
  | 0, 5 => some fun m => .not m d
  | 0, 6 => some fun m => .rnd m d
  | 0, _ => some fun m => .tfrAcc m d
  | 1, 0 => some fun m => .asl m d
  | 1, 1 => some fun m => .asr m d
  | 1, 2 => some fun m => .lsl m d
  | 1, 3 => some fun m => .lsr m d
  | 1, 4 => some fun m => .rol m d
  | 1, 5 => some fun m => .ror m d
  | 1, 6 => some fun m => .inc m d
  | 1, _ => some fun m => .dec m d
  | 2, 4 => some fun m => .addAcc m d
  | 2, j => if j < 4 then some fun m => .add m src d else none
  | 3, 4 => some fun m => .subAcc m d
  | 3, j => if j < 4 then some fun m => .sub m src d else none
  | 4, 4 => some fun m => .cmpAcc m d
  | 4, j => if j < 4 then some fun m => .cmp m src d else none
  | 5, j => if j < 4 then some fun m => .and m src d else some fun m => .tfrData m src d
  | 6, j => if j < 4 then some fun m => .or m src d else some fun m => .tfrAddr m rn d
  | _, j => if j < 4 then some fun m => .eor m src d else none

/-- R85: the operation byte `OP = word0[7:0]`, as what it makes of a move. -/
def decodeOp (op : BitVec 8) : Option (PMove → Instr) :=
  if op[7] then some (decodeMul op) else decodeAlu op

/-- R83: the two halves of a format P word decode independently. -/
def decodeP (word0 word1 : Word) : Except DecodeErrorName Instr :=
  match decodeMove (word0.extractLsb' 8 7) word1, decodeOp (word0.extractLsb' 0 8) with
  | some m, some f => .ok (f m)
  | _, _ => .error .invalidOpcode

/-! ## Format D (rules R87 to R89) -/

/-- R88 and R89: the dual move of `T = word0[13]` and `word0[12:6]`. -/
def decodeDMove (word0 : Word) : DMove :=
  if word0[13] then
    .dualreg (dataRegOf (word0.extractLsb' 11 2)) (dataRegOf (word0.extractLsb' 9 2))
      (accOf word0[8]) (dataRegOf (word0.extractLsb' 6 2))
  else
    .dualread (slot1BaseOf word0[12]) (dualModeOf (word0.extractLsb' 10 2)) (xRegOf word0[9])
      (dualModeOf (word0.extractLsb' 7 2)) (yRegOf word0[6])

/-- A format D opcode whose instruction is `MPY` is named by its move (log 4). -/
def withMpy (m : DMove) (k : Sign) (q : DualPair) (d : Acc) : Instr :=
  match m with
  | .dualread base mode1 dst1 mode2 dst2 => .dualread base mode1 dst1 mode2 dst2 k q d
  | .dualreg src1 dst1 src2 dst2 => .dualreg src1 dst1 src2 dst2 k q d

/-- R87: every format D word is valid. -/
def decodeD (word0 : Word) : Instr :=
  let m := decodeDMove word0
  let k := signOf word0[5]
  let d := accOf word0[2]
  let q := dualPairOf (word0.extractLsb' 0 2)
  match (word0.extractLsb' 3 2).toNat with
  | 0 => withMpy m k q d
  | 1 => .mpyrD m k q d
  | 2 => .macD m k q d
  | _ => .macrD m k q d

/-! ## Format N (rules R90 to R100) -/

/-- R91: major 0000. -/
def decodeN0 (x : BitVec 10) : Except DecodeErrorName Instr :=
  match x.toNat with
  | 0 => .ok .nop
  | 1 => .ok .enddo
  | 2 => .ok .next
  | _ => .error .invalidOpcode

/-- R92: `MOVE S,D`. -/
def decodeMoveReg (x : BitVec 10) : Except DecodeErrorName Instr :=
  match regOf (x.extractLsb' 5 5), regOf (x.extractLsb' 0 5) with
  | some src, some dst => .ok (.moveReg src dst)
  | _, _ => .error .invalidOpcode

/-- R93 with `W = 0`: `MOVE X:<ea>,D` and `MOVE #xxxx,D`. An unassigned register code outranks an
unassigned mode (rule R303). -/
def decodeLoad (x : BitVec 10) (word1 : Word) : Except DecodeErrorName Instr :=
  match regOf (x.extractLsb' 5 5) with
  | none => .error .invalidOpcode
  | some dst =>
    let rr := x.extractLsb' 0 2
    match modeOf (x.extractLsb' 2 3) with
    | some mode => .ok (.moveLoad dst mode (addrRegOf rr))
    | none =>
      if x.extractLsb' 2 3 = 6 then .ok (.moveLoadDisp dst (addrRegOf rr) word1)
      else if rr = 0 then .ok (.moveLoadAbs dst word1)
      else if rr = 1 then .ok (.moveImm dst word1)
      else .error .addressingMode

/-- R93 with `W = 1`: `MOVE S,X:<ea>`; an immediate cannot be a destination. -/
def decodeStore (x : BitVec 10) (word1 : Word) : Except DecodeErrorName Instr :=
  match regOf (x.extractLsb' 5 5) with
  | none => .error .invalidOpcode
  | some src =>
    let rr := x.extractLsb' 0 2
    match modeOf (x.extractLsb' 2 3) with
    | some mode => .ok (.moveStore src mode (addrRegOf rr))
    | none =>
      if x.extractLsb' 2 3 = 6 then .ok (.moveStoreDisp src (addrRegOf rr) word1)
      else if rr = 0 then .ok (.moveStoreAbs src word1)
      else .error .addressingMode

/-- R95: the accumulator-immediate instructions; `word0[5:0]` must be zero. -/
def decodeAccImm (x : BitVec 10) (word1 : Word) : Except DecodeErrorName Instr :=
  let d := accOf x[6]
  if x.extractLsb' 0 6 = 0 then
    match (x.extractLsb' 7 3).toNat with
    | 0 => .ok (.addi word1 d)
    | 1 => .ok (.subi word1 d)
    | 2 => .ok (.cmpi word1 d)
    | 3 => .ok (.andi word1 d)
    | 4 => .ok (.ori word1 d)
    | 5 => .ok (.eori word1 d)
    | _ => .error .invalidOpcode
  else .error .invalidOpcode

/-- R96: `ANDC` and `ORC`; `word0[8]` must be zero. -/
def decodeStatusImm (x : BitVec 10) : Except DecodeErrorName Instr :=
  if x[8] then .error .invalidOpcode
  else if x[9] then .ok (.orc (x.extractLsb' 0 8))
  else .ok (.andc (x.extractLsb' 0 8))

/-- R97: `Bcc` short. -/
def decodeBccShort (x : BitVec 10) : Except DecodeErrorName Instr :=
  match condOf (x.extractLsb' 6 4) with
  | some c => .ok (.bccShort c (x.extractLsb' 0 6))
  | none => .error .invalidOpcode

/-- R98: `Bcc` long, `Jcc` absolute, `Jcc (Rn)`. -/
def decodeLongTransfer (x : BitVec 10) (word1 : Word) : Except DecodeErrorName Instr :=
  match condOf (x.extractLsb' 6 4) with
  | none => .error .invalidOpcode
  | some c =>
    if x.extractLsb' 2 2 = 0 then
      match (x.extractLsb' 4 2).toNat with
      | 0 => if x.extractLsb' 0 2 = 0 then .ok (.bccLong c word1) else .error .invalidOpcode
      | 1 => if x.extractLsb' 0 2 = 0 then .ok (.jccAbs c word1) else .error .invalidOpcode
      | 2 => .ok (.jccReg c (addrRegOf (x.extractLsb' 0 2)))
      | _ => .error .invalidOpcode
    else .error .invalidOpcode

/-- R99: `DO #xx` and `DO S`. -/
def decodeDo (x : BitVec 10) : Except DecodeErrorName Instr :=
  if x[9] then
    if x.extractLsb' 5 4 = 0 then
      match regOf (x.extractLsb' 0 5) with
      | some src => .ok (.doReg src)
      | none => .error .invalidOpcode
    else .error .invalidOpcode
  else if x[8] then .error .invalidOpcode
  else .ok (.doImm (x.extractLsb' 0 8))

/-- R100: the operand of a bit instruction, `bbbb rrrrr M`, for the register form and the memory form
of one of the four. -/
def decodeBit (x : BitVec 10) (onReg : BitVec 4 → Reg → Instr) (onMem : BitVec 4 → AddrReg → Instr) :
    Except DecodeErrorName Instr :=
  let bit := x.extractLsb' 6 4
  if x[0] then
    if x.extractLsb' 3 3 = 0 then .ok (onMem bit (addrRegOf (x.extractLsb' 1 2)))
    else .error .invalidOpcode
  else
    match bitRegOf (x.extractLsb' 1 5) with
    | some r => .ok (onReg bit r)
    | none => .error .invalidOpcode

/-- R90: the majors of format N. -/
def decodeN (word0 word1 : Word) : Except DecodeErrorName Instr :=
  let x := word0.extractLsb' 0 10
  match (word0.extractLsb' 10 4).toNat with
  | 0 => decodeN0 x
  | 1 => decodeMoveReg x
  | 2 => decodeLoad x word1
  | 3 => decodeStore x word1
  | 4 => decodeAccImm x word1
  | 5 => decodeStatusImm x
  | 8 => decodeBccShort x
  | 10 => decodeLongTransfer x word1
  | 11 => decodeDo x
  | 12 => decodeBit x .btstReg .btstMem
  | 13 => decodeBit x .bsetReg .bsetMem
  | 14 => decodeBit x .bclrReg .bclrMem
  | 15 => decodeBit x .bchgReg .bchgMem
  | _ => .error .invalidOpcode

/-! ## Size and decode (rules R82, R104, R262) -/

/-- The words a format P move needs: 2 for the three shapes with a datum (rule R84). -/
def PMove.size : PMove → Nat
  | .empty => 1
  | .regmove _ _ => 1
  | .immload _ _ => 2
  | .absread _ _ => 2
  | .abswrite _ _ => 2
  | .memread _ _ => 1
  | .memwrite _ _ => 1

/-- R82 and R262: the opcode's size in words, 1 or 2. -/
def Instr.size : Instr → Nat
  | .empty => 1
  | .regmove _ _ => 1
  | .immload _ _ => 2
  | .absread _ _ => 2
  | .abswrite _ _ => 2
  | .memread _ _ => 1
  | .memwrite _ _ => 1
  | .clr m _ => m.size
  | .tst m _ => m.size
  | .abs m _ => m.size
  | .neg m _ => m.size
  | .not m _ => m.size
  | .rnd m _ => m.size
  | .tfrAcc m _ => m.size
  | .asl m _ => m.size
  | .asr m _ => m.size
  | .lsl m _ => m.size
  | .lsr m _ => m.size
  | .rol m _ => m.size
  | .ror m _ => m.size
  | .inc m _ => m.size
  | .dec m _ => m.size
  | .add m _ _ => m.size
  | .addAcc m _ => m.size
  | .sub m _ _ => m.size
  | .subAcc m _ => m.size
  | .cmp m _ _ => m.size
  | .cmpAcc m _ => m.size
  | .and m _ _ => m.size
  | .tfrData m _ _ => m.size
  | .or m _ _ => m.size
  | .tfrAddr m _ _ => m.size
  | .eor m _ _ => m.size
  | .mpy m _ _ _ => m.size
  | .mpyr m _ _ _ => m.size
  | .mac m _ _ _ => m.size
  | .macr m _ _ _ => m.size
  | .dualread _ _ _ _ _ _ _ _ => 1
  | .dualreg _ _ _ _ _ _ _ => 1
  | .mpyrD _ _ _ _ => 1
  | .macD _ _ _ _ => 1
  | .macrD _ _ _ _ => 1
  | .nop => 1
  | .enddo => 1
  | .next => 1
  | .moveReg _ _ => 1
  | .moveLoad _ _ _ => 1
  | .moveLoadDisp _ _ _ => 2
  | .moveLoadAbs _ _ => 2
  | .moveImm _ _ => 2
  | .moveStore _ _ _ => 1
  | .moveStoreDisp _ _ _ => 2
  | .moveStoreAbs _ _ => 2
  | .addi _ _ => 2
  | .subi _ _ => 2
  | .cmpi _ _ => 2
  | .andi _ _ => 2
  | .ori _ _ => 2
  | .eori _ _ => 2
  | .andc _ => 1
  | .orc _ => 1
  | .bccShort _ _ => 1
  | .bccLong _ _ => 2
  | .jccAbs _ _ => 2
  | .jccReg _ _ => 1
  | .doImm _ => 1
  | .doReg _ => 1
  | .btstReg _ _ => 1
  | .btstMem _ _ => 1
  | .bsetReg _ _ => 1
  | .bsetMem _ _ => 1
  | .bclrReg _ _ => 1
  | .bclrMem _ _ => 1
  | .bchgReg _ _ => 1
  | .bchgMem _ _ => 1

/-- R81 and R104, steps 1 to 3: the format by `word0[15:14]`. Validity does not depend on `word1`,
which is only the datum of a two-word opcode (rule R80). -/
def decodeWords (word0 word1 : Word) : Except DecodeErrorName Instr :=
  if word0[15] then decodeP word0 word1
  else if word0[14] then .ok (decodeD word0)
  else decodeN word0 word1

/-- R104, steps 1 to 5: what the checks make of the words, by the name of the first one that fails. A
two-word opcode without `word1` is `IncompleteFetch`, so the zero that stands in for an absent word
reaches no opcode (rule R304); a `word1` that a one-word opcode does not need is ignored. -/
def decodeChecked (word0 : Word) (word1 : Option Word) : Except DecodeErrorName Instr :=
  match word1 with
  | some w => decodeWords word0 w
  | none =>
    match decodeWords word0 0 with
    | .error e => .error e
    | .ok i => if i.size = 2 then .error .incompleteFetch else .ok i

/-- R260 and R301: `decode(word0, word1?)`. Every error carries `word0`. -/
def decode (word0 : Word) (word1 : Option Word) : Except DecodeError Instr :=
  match decodeChecked word0 word1 with
  | .ok i => .ok i
  | .error e => .error ⟨e, word0⟩

/-- R301: the numeric code of an error's name. -/
def DecodeErrorName.code : DecodeErrorName → Nat
  | .invalidOpcode => 1
  | .addressingMode => 2
  | .incompleteFetch => 3

/-- R301: the numeric code of an error. -/
def DecodeError.code (e : DecodeError) : Nat := e.name.code

/-! ## The encoder, from the same tables -/

/-- Field `F`. -/
def Acc.bit : Acc → BitVec 1
  | .a => 0
  | .b => 1

/-- Field `k`. -/
def Sign.bit : Sign → BitVec 1
  | .plus => 0
  | .minus => 1

/-- Field `jj`. -/
def DataReg.code : DataReg → BitVec 2
  | .x0 => 0
  | .x1 => 1
  | .y0 => 2
  | .y1 => 3

/-- Fields `RR` and `rr`. -/
def AddrReg.code : AddrReg → BitVec 2
  | .r0 => 0
  | .r1 => 1
  | .r2 => 2
  | .r3 => 3

/-- The 3-bit register codes. -/
def MoveReg.code : MoveReg → BitVec 3
  | .x0 => 0
  | .x1 => 1
  | .y0 => 2
  | .y1 => 3
  | .a => 4
  | .b => 5

/-- The 5-bit register codes (rule R36). -/
def Reg.code : Reg → BitVec 5
  | .x0 => 0
  | .x1 => 1
  | .y0 => 2
  | .y1 => 3
  | .a => 4
  | .b => 5
  | .a0 => 6
  | .b0 => 7
  | .a1 => 8
  | .b1 => 9
  | .a2 => 10
  | .b2 => 11
  | .r0 => 12
  | .r1 => 13
  | .r2 => 14
  | .r3 => 15
  | .n0 => 16
  | .n1 => 17
  | .n2 => 18
  | .n3 => 19
  | .sr => 20
  | .lc => 21
  | .la => 22

/-- Field `qqq`. -/
def Pair.code : Pair → BitVec 3
  | .x0y0 => 0
  | .x0y1 => 1
  | .x1y0 => 2
  | .x1y1 => 3
  | .x0x0 => 4
  | .y0y0 => 5
  | .x1x0 => 6
  | .y1y0 => 7

/-- Field `qq`. -/
def DualPair.code : DualPair → BitVec 2
  | .x0y0 => 0
  | .x0y1 => 1
  | .x1y0 => 2
  | .x1y1 => 3

/-- Field `cccc`. -/
def Cond.code : Cond → BitVec 4
  | .cc => 0
  | .cs => 1
  | .ne => 2
  | .eq => 3
  | .pl => 4
  | .mi => 5
  | .vc => 6
  | .vs => 7
  | .ge => 8
  | .lt => 9
  | .gt => 10
  | .le => 11
  | .hi => 12
  | .ls => 13
  | .al => 14

/-- Field `MMM`, modes 0 to 5. -/
def Mode.code : Mode → BitVec 3
  | .indirect => 0
  | .postInc => 1
  | .postDec => 2
  | .postAdd => 3
  | .preDec => 4
  | .indexed => 5

/-- Fields `mm` and `nn`. -/
def DualMode.code : DualMode → BitVec 2
  | .indirect => 0
  | .postInc => 1
  | .postDec => 2
  | .postAdd => 3

/-- Field `a`. -/
def Slot1Base.bit : Slot1Base → BitVec 1
  | .r0 => 0
  | .r1 => 1

/-- Field `e`. -/
def XReg.bit : XReg → BitVec 1
  | .x0 => 0
  | .x1 => 1

/-- Field `g`. -/
def YReg.bit : YReg → BitVec 1
  | .y0 => 0
  | .y1 => 1

/-- The move field `V` (rule R84). -/
def PMove.code : PMove → BitVec 7
  | .empty => 0
  | .regmove src dst => 0#1 ++ src.code ++ dst.code
  | .immload _ dst => 0#1 ++ 6#3 ++ dst.code
  | .absread _ dst => 0#1 ++ 7#3 ++ dst.code
  | .abswrite src _ => 0#1 ++ src.code ++ 6#3
  | .memread rn dst => 1#1 ++ 0#1 ++ rn.code ++ dst.code
  | .memwrite src rn => 1#1 ++ 1#1 ++ rn.code ++ src.code

/-- The extension word of a format P move, if it has one (rule R84). -/
def PMove.datum : PMove → Option Word
  | .empty => none
  | .regmove _ _ => none
  | .immload imm _ => some imm
  | .absread addr _ => some addr
  | .abswrite _ addr => some addr
  | .memread _ _ => none
  | .memwrite _ _ => none

/-- The bits `T` and `word0[12:6]` of a dual move (rules R88, R89). -/
def DMove.code : DMove → BitVec 8
  | .dualread base mode1 dst1 mode2 dst2 =>
    0#1 ++ base.bit ++ mode1.code ++ dst1.bit ++ mode2.code ++ dst2.bit
  | .dualreg src1 dst1 src2 dst2 => 1#1 ++ src1.code ++ dst1.code ++ src2.bit ++ dst2.code

/-- A format P opcode (rule R83): `1 V OP`. -/
def encodeP (m : PMove) (op : BitVec 8) : Word × Option Word :=
  (1#1 ++ m.code ++ op, m.datum)

/-- The operation byte `0 ggg F jjj` (rule R85). -/
def aluByte (g : BitVec 3) (d : Acc) (j : BitVec 3) : BitVec 8 :=
  0#1 ++ g ++ d.bit ++ j

/-- The operation byte `1 k oo F qqq` (rule R85). -/
def mulByte (k : Sign) (o : BitVec 2) (d : Acc) (q : Pair) : BitVec 8 :=
  1#1 ++ k.bit ++ o ++ d.bit ++ q.code

/-- A format D opcode (rule R87): `01 T mmmmmmm k oo F qq`. -/
def encodeD (m : DMove) (k : Sign) (o : BitVec 2) (d : Acc) (q : DualPair) : Word × Option Word :=
  (1#2 ++ m.code ++ k.bit ++ o ++ d.bit ++ q.code, none)

/-- A one-word format N opcode (rule R90): `00 MMMM xxxxxxxxxx`. -/
def encodeN (major : BitVec 4) (x : BitVec 10) : Word × Option Word :=
  (0#2 ++ major ++ x, none)

/-- A two-word format N opcode. -/
def encodeN2 (major : BitVec 4) (x : BitVec 10) (word1 : Word) : Word × Option Word :=
  (0#2 ++ major ++ x, some word1)

/-- The operand bits `ooo F 000000` (rule R95). -/
def accImmBits (o : BitVec 3) (d : Acc) : BitVec 10 :=
  o ++ d.bit ++ 0#6

/-- The words of an opcode (rules R80 to R100): `word0`, and `word1` where the opcode has one. -/
def encode : Instr → Word × Option Word
  | .empty => encodeP .empty 0x00
  | .regmove src dst => encodeP (.regmove src dst) 0x00
  | .immload imm dst => encodeP (.immload imm dst) 0x00
  | .absread addr dst => encodeP (.absread addr dst) 0x00
  | .abswrite src addr => encodeP (.abswrite src addr) 0x00
  | .memread rn dst => encodeP (.memread rn dst) 0x00
  | .memwrite src rn => encodeP (.memwrite src rn) 0x00
  | .clr m d => encodeP m (aluByte 0 d 1)
  | .tst m d => encodeP m (aluByte 0 d 2)
  | .abs m d => encodeP m (aluByte 0 d 3)
  | .neg m d => encodeP m (aluByte 0 d 4)
  | .not m d => encodeP m (aluByte 0 d 5)
  | .rnd m d => encodeP m (aluByte 0 d 6)
  | .tfrAcc m d => encodeP m (aluByte 0 d 7)
  | .asl m d => encodeP m (aluByte 1 d 0)
  | .asr m d => encodeP m (aluByte 1 d 1)
  | .lsl m d => encodeP m (aluByte 1 d 2)
  | .lsr m d => encodeP m (aluByte 1 d 3)
  | .rol m d => encodeP m (aluByte 1 d 4)
  | .ror m d => encodeP m (aluByte 1 d 5)
  | .inc m d => encodeP m (aluByte 1 d 6)
  | .dec m d => encodeP m (aluByte 1 d 7)
  | .add m src d => encodeP m (aluByte 2 d (0#1 ++ src.code))
  | .addAcc m d => encodeP m (aluByte 2 d 4)
  | .sub m src d => encodeP m (aluByte 3 d (0#1 ++ src.code))
  | .subAcc m d => encodeP m (aluByte 3 d 4)
  | .cmp m src d => encodeP m (aluByte 4 d (0#1 ++ src.code))
  | .cmpAcc m d => encodeP m (aluByte 4 d 4)
  | .and m src d => encodeP m (aluByte 5 d (0#1 ++ src.code))
  | .tfrData m src d => encodeP m (aluByte 5 d (1#1 ++ src.code))
  | .or m src d => encodeP m (aluByte 6 d (0#1 ++ src.code))
  | .tfrAddr m rn d => encodeP m (aluByte 6 d (1#1 ++ rn.code))
  | .eor m src d => encodeP m (aluByte 7 d (0#1 ++ src.code))
  | .mpy m k q d => encodeP m (mulByte k 0 d q)
  | .mpyr m k q d => encodeP m (mulByte k 1 d q)
  | .mac m k q d => encodeP m (mulByte k 2 d q)
  | .macr m k q d => encodeP m (mulByte k 3 d q)
  | .dualread base mode1 dst1 mode2 dst2 k q d =>
    encodeD (.dualread base mode1 dst1 mode2 dst2) k 0 d q
  | .dualreg src1 dst1 src2 dst2 k q d => encodeD (.dualreg src1 dst1 src2 dst2) k 0 d q
  | .mpyrD m k q d => encodeD m k 1 d q
  | .macD m k q d => encodeD m k 2 d q
  | .macrD m k q d => encodeD m k 3 d q
  | .nop => encodeN 0 0
  | .enddo => encodeN 0 1
  | .next => encodeN 0 2
  | .moveReg src dst => encodeN 1 (src.code ++ dst.code)
  | .moveLoad dst mode rn => encodeN 2 (dst.code ++ mode.code ++ rn.code)
  | .moveLoadDisp dst rn disp => encodeN2 2 (dst.code ++ 6#3 ++ rn.code) disp
  | .moveLoadAbs dst addr => encodeN2 2 (dst.code ++ 7#3 ++ 0#2) addr
  | .moveImm dst imm => encodeN2 2 (dst.code ++ 7#3 ++ 1#2) imm
  | .moveStore src mode rn => encodeN 3 (src.code ++ mode.code ++ rn.code)
  | .moveStoreDisp src rn disp => encodeN2 3 (src.code ++ 6#3 ++ rn.code) disp
  | .moveStoreAbs src addr => encodeN2 3 (src.code ++ 7#3 ++ 0#2) addr
  | .addi imm d => encodeN2 4 (accImmBits 0 d) imm
  | .subi imm d => encodeN2 4 (accImmBits 1 d) imm
  | .cmpi imm d => encodeN2 4 (accImmBits 2 d) imm
  | .andi imm d => encodeN2 4 (accImmBits 3 d) imm
  | .ori imm d => encodeN2 4 (accImmBits 4 d) imm
  | .eori imm d => encodeN2 4 (accImmBits 5 d) imm
  | .andc imm => encodeN 5 (0#1 ++ 0#1 ++ imm)
  | .orc imm => encodeN 5 (1#1 ++ 0#1 ++ imm)
  | .bccShort cond disp => encodeN 8 (cond.code ++ disp)
  | .bccLong cond disp => encodeN2 10 (cond.code ++ 0#2 ++ 0#2 ++ 0#2) disp
  | .jccAbs cond target => encodeN2 10 (cond.code ++ 1#2 ++ 0#2 ++ 0#2) target
  | .jccReg cond rn => encodeN 10 (cond.code ++ 2#2 ++ 0#2 ++ rn.code)
  | .doImm count => encodeN 11 (0#1 ++ 0#1 ++ count)
  | .doReg src => encodeN 11 (1#1 ++ 0#4 ++ src.code)
  | .btstReg bit r => encodeN 12 (bit ++ r.code ++ 0#1)
  | .btstMem bit rn => encodeN 12 (bit ++ 0#3 ++ rn.code ++ 1#1)
  | .bsetReg bit r => encodeN 13 (bit ++ r.code ++ 0#1)
  | .bsetMem bit rn => encodeN 13 (bit ++ 0#3 ++ rn.code ++ 1#1)
  | .bclrReg bit r => encodeN 14 (bit ++ r.code ++ 0#1)
  | .bclrMem bit rn => encodeN 14 (bit ++ 0#3 ++ rn.code ++ 1#1)
  | .bchgReg bit r => encodeN 15 (bit ++ r.code ++ 0#1)
  | .bchgMem bit rn => encodeN 15 (bit ++ 0#3 ++ rn.code ++ 1#1)

/-! ## The host's question about the opcode table -/

/-- The instruction the decoder reads from the opcode whose bits are `w`: `word0` is bits 15..0 and
`word1` is bits 31..16; the bits from `nbits` on are zero. Both words are supplied, as the reference
step would (rule R268). -/
def decodeTableWord (nbits w : Nat) : Option Instr :=
  let bits := w % 2 ^ nbits
  match decode (BitVec.ofNat 16 bits) (some (BitVec.ofNat 16 (bits / 65536))) with
  | .ok i => some i
  | .error _ => none

end Sys2Proof
end

