-- ==== Sys2Proof/Config.lean ====
section
/-! DEFINITION. What the spec fixes as a parameter of the core (rule R6), and what it leaves open. -/

namespace Sys2Proof.Config

/-- `LS_DEPTH` of rule R6: the loop stack has eight entries. -/
def loopDepth : Nat := 8

/-- The implemented bits of `SR` (rule R30): a write to `SR` as a whole stores `v & 0x001F`. -/
def statusMask : Word := 0x001F

/-- DESIGN CHOICE (log 2), unsafe: what a byte of memory that nothing has written reads as. The host
owns the initial contents (rule R322); 95_test_vectors.md section 1 takes 0000. -/
def unlistedByte : Byte := 0x00

/-- How many byte cells one space has: 65,536 words (rule R62) of two bytes. -/
def cellLimit : Nat := 131072

/-- `EVAL_COST` of rules R6, R263 and R331, left OPEN by the spec: a function of the opcode's words and
of nothing else. It has no body, so no proof can learn a value of it (log 6). -/
opaque evalCost : Word → Option Word → Nat

end Sys2Proof.Config
end

