-- ==== Sys2Proof/Machine/State.lean ====
section
/-! DEFINITION. The state of one core (rules R20 to R35), the two memory spaces behind the host's
capability (rule R62), the reasons a step can stop, and the reset state (rule R320). Plain data. -/

namespace Sys2Proof.Machine

/-- One address space as plain memory (log 1): a list of byte cells with strictly rising addresses and
no cell equal to what an unlisted one reads as. Word `w` lies in the cells `2 * w` and `2 * w + 1`
(log 3). -/
abbrev Memory := List Host.Cell

/-- The canonical form from address `lo` on. -/
def Memory.wfFrom : Nat → Memory → Bool
  | _, [] => true
  | lo, (k, v) :: m =>
    decide (lo ≤ k) && decide (k < Config.cellLimit) && v != Config.unlistedByte && Memory.wfFrom (k + 1) m

/-- The canonical form: addresses strictly rising and inside the space, no cell at its default. -/
def Memory.wf (m : Memory) : Bool := Memory.wfFrom 0 m

/-- `SR` (rule R30): the five implemented bits; bits 15:5 are not state (93_implementation_defined.md
V7). -/
structure Status where
  /-- Bit 0, carry. -/
  c : Bool
  /-- Bit 1, overflow. -/
  v : Bool
  /-- Bit 2, zero. -/
  z : Bool
  /-- Bit 3, negative. -/
  n : Bool
  /-- Bit 4, sticky loop-stack error. -/
  se : Bool
deriving DecidableEq, Repr

/-- One saved pair (`la`, `lc`) of the loop stack (rule R34). -/
structure LoopEntry where
  la : Word
  lc : Word
deriving DecidableEq, Repr

/-- `LS[0..7]` (rule R34): the eight entries, valid or not. -/
structure LoopStack where
  e0 : LoopEntry
  e1 : LoopEntry
  e2 : LoopEntry
  e3 : LoopEntry
  e4 : LoopEntry
  e5 : LoopEntry
  e6 : LoopEntry
  e7 : LoopEntry
deriving DecidableEq, Repr

/-- CoreState (rule R21), and the two spaces the host keeps for it. One core (log 8); the host's actions
between two steps are no part of it (log 7). -/
structure State where
  /-- Data registers (rule R22). -/
  x0 : Word
  x1 : Word
  y0 : Word
  y1 : Word
  /-- Accumulators, all 40 bits (rule R23). -/
  a : Wide
  b : Wide
  /-- Address registers (rule R27). -/
  r0 : Word
  r1 : Word
  r2 : Word
  r3 : Word
  /-- Offset registers (rule R28). -/
  n0 : Word
  n1 : Word
  n2 : Word
  n3 : Word
  /-- Status word (rule R30). -/
  sr : Status
  /-- Loop counter (rule R32). -/
  lc : Word
  /-- Loop address (rule R33). -/
  la : Word
  /-- Program counter (rule R29). -/
  pc : Word
  /-- Loop stack (rule R34). -/
  ls : LoopStack
  /-- Number of valid loop-stack entries, 0 to 8 (rule R34, log 9). -/
  lsp : Nat
  /-- X data space (rules R60, R62). -/
  xmem : Memory
  /-- P program space (rules R61, R62). -/
  pmem : Memory
deriving DecidableEq, Repr

/-- Why the reference step stops (rules R268, R306). -/
inductive Fault where
  /-- Raised by `step` alone, when the word at `pc` decodes to no opcode: the error (which carries its
  first word, rule R301), the `pc` and the first word, as `Stopped(error, pc, word0)` of rule R268; the state is the one before the
  step. Safe: the spec stops here too (log 5). -/
  | stopped (error : DecodeError) (pc word0 : Word)
deriving DecidableEq, Repr

/-- Why an instruction has no meaning. -/
inductive Refusal where
  /-- An instruction of the opcode table without a meaning: none is left. Safe. -/
  | notModelled (mnemonic : String)
deriving DecidableEq, Repr

/-- What a meaning answers. -/
abbrev Result := Host.Outcome State Fault Refusal

/-- `SR` after reset (rule R320). -/
def Status.reset : Status := ⟨false, false, false, false, false⟩

/-- A cleared loop-stack entry (rule R320). -/
def LoopEntry.zero : LoopEntry := ⟨0, 0⟩

/-- The loop stack after reset (rule R320). -/
def LoopStack.reset : LoopStack :=
  ⟨.zero, .zero, .zero, .zero, .zero, .zero, .zero, .zero⟩

/-- The machine right after reset (rule R320): every register zero, the loop stack empty, `pc` at
P:0x0000. Nothing is listed in memory (log 2). -/
def State.reset : State where
  x0 := 0
  x1 := 0
  y0 := 0
  y1 := 0
  a := 0
  b := 0
  r0 := 0
  r1 := 0
  r2 := 0
  r3 := 0
  n0 := 0
  n1 := 0
  n2 := 0
  n3 := 0
  sr := Status.reset
  lc := 0
  la := 0
  pc := 0
  ls := LoopStack.reset
  lsp := 0
  xmem := []
  pmem := []

end Sys2Proof.Machine
end

