-- ==== Sys2Proof/Machine/Operands.lean ====
section
/-! DEFINITION. Operands: the registers as the instructions name them, the 16-bit register port (rules
R36 to R38), limiting (rule R26), alignment (rule R8), and the addressing-mode resolver (rules R120 to
R127). -/

namespace Sys2Proof.Machine

/-! ## Names for the same register at different widths of field -/

/-- `D'`, the other accumulator (rule R10). -/
def otherAcc : Acc → Acc
  | .a => .b
  | .b => .a

/-- The 5-bit name of a data register (rule R36). -/
def dataName : DataReg → Reg
  | .x0 => .x0
  | .x1 => .x1
  | .y0 => .y0
  | .y1 => .y1

/-- The 5-bit name of a whole accumulator (rule R36). -/
def accName : Acc → Reg
  | .a => .a
  | .b => .b

/-- The 5-bit name of an accumulator's high word (rule R36). -/
def highName : Acc → Reg
  | .a => .a1
  | .b => .b1

/-- The 5-bit name of an address register (rule R36). -/
def addrName : AddrReg → Reg
  | .r0 => .r0
  | .r1 => .r1
  | .r2 => .r2
  | .r3 => .r3

/-- The 5-bit name of the offset register paired with an address register (rules R28, R36). -/
def offsetName : AddrReg → Reg
  | .r0 => .n0
  | .r1 => .n1
  | .r2 => .n2
  | .r3 => .n3

/-- The 5-bit name of a format P move register (rule R36). -/
def moveName : MoveReg → Reg
  | .x0 => .x0
  | .x1 => .x1
  | .y0 => .y0
  | .y1 => .y1
  | .a => .a
  | .b => .b

/-- `qqq = 0 qq` (rule R86). -/
def dualPairOfPair : DualPair → Pair
  | .x0y0 => .x0y0
  | .x0y1 => .x0y1
  | .x1y0 => .x1y0
  | .x1y1 => .x1y1

/-- The first register of a source pair (rule R202). -/
def pairFst : Pair → DataReg
  | .x0y0 => .x0
  | .x0y1 => .x0
  | .x1y0 => .x1
  | .x1y1 => .x1
  | .x0x0 => .x0
  | .y0y0 => .y0
  | .x1x0 => .x1
  | .y1y0 => .y1

/-- The second register of a source pair (rule R202). -/
def pairSnd : Pair → DataReg
  | .x0y0 => .y0
  | .x0y1 => .y1
  | .x1y0 => .y0
  | .x1y1 => .y1
  | .x0x0 => .x0
  | .y0y0 => .y0
  | .x1x0 => .x0
  | .y1y0 => .y0

/-- The 2-bit modes are modes 0 to 3 (rule R88). -/
def dualModeOfMode : DualMode → Mode
  | .indirect => .indirect
  | .postInc => .postInc
  | .postDec => .postDec
  | .postAdd => .postAdd

/-- The address register of slot 1 (rule R88). -/
def slot1Addr : Slot1Base → AddrReg
  | .r0 => .r0
  | .r1 => .r1

/-- The destination of slot 1 (rule R88). -/
def xName : XReg → Reg
  | .x0 => .x0
  | .x1 => .x1

/-- The destination of slot 2 (rule R88). -/
def yName : YReg → Reg
  | .y0 => .y0
  | .y1 => .y1

/-! ## Reading and writing the registers at their full width -/

/-- A data register. -/
def State.data (s : State) : DataReg → Word
  | .x0 => s.x0
  | .x1 => s.x1
  | .y0 => s.y0
  | .y1 => s.y1

/-- All 40 bits of an accumulator. -/
def State.acc (s : State) : Acc → Wide
  | .a => s.a
  | .b => s.b

/-- An address register. -/
def State.addr (s : State) : AddrReg → Word
  | .r0 => s.r0
  | .r1 => s.r1
  | .r2 => s.r2
  | .r3 => s.r3

/-- The offset register paired with an address register. -/
def State.offset (s : State) : AddrReg → Word
  | .r0 => s.n0
  | .r1 => s.n1
  | .r2 => s.n2
  | .r3 => s.n3

/-- Write a data register. -/
def State.setData (s : State) (r : DataReg) (v : Word) : State :=
  match r with
  | .x0 => { s with x0 := v }
  | .x1 => { s with x1 := v }
  | .y0 => { s with y0 := v }
  | .y1 => { s with y1 := v }

/-- Write all 40 bits of an accumulator. -/
def State.setAcc (s : State) (r : Acc) (v : Wide) : State :=
  match r with
  | .a => { s with a := v }
  | .b => { s with b := v }

/-- Write an address register. -/
def State.setAddr (s : State) (r : AddrReg) (v : Word) : State :=
  match r with
  | .r0 => { s with r0 := v }
  | .r1 => { s with r1 := v }
  | .r2 => { s with r2 := v }
  | .r3 => { s with r3 := v }

/-- Write the offset register paired with an address register. -/
def State.setOffset (s : State) (r : AddrReg) (v : Word) : State :=
  match r with
  | .r0 => { s with n0 := v }
  | .r1 => { s with n1 := v }
  | .r2 => { s with n2 := v }
  | .r3 => { s with n3 := v }

/-- Write the status flags. -/
def State.setSr (s : State) (f : Status) : State := { s with sr := f }

/-- Write `LC`. -/
def State.setLc (s : State) (v : Word) : State := { s with lc := v }

/-- Write `LA`. -/
def State.setLa (s : State) (v : Word) : State := { s with la := v }

/-- Write the program counter. -/
def State.setPc (s : State) (v : Word) : State := { s with pc := v }

/-! ## Alignment and limiting -/

/-- R8: `ext40(v) = trunc_40(s_16(v) * 2^16)`. -/
def ext40 (v : Word) : Wide := BitVec.ofInt 40 (v.toInt * 65536)

/-- R26: the saturated 16-bit view of an accumulator. -/
def limit (acc : Wide) : Word :=
  if acc.toInt > 0x7FFFFFFF then 0x7FFF
  else if acc.toInt < -0x80000000 then 0x8000
  else acc.extractLsb' 16 16

/-- The parts of an accumulator (rule R23): `A0`, `A1`, `A2`. -/
def lowPart (acc : Wide) : Word := acc.extractLsb' 0 16
@[inherit_doc lowPart] def highPart (acc : Wide) : Word := acc.extractLsb' 16 16
@[inherit_doc lowPart] def extPart (acc : Wide) : Byte := acc.extractLsb' 32 8

/-- A write to one part changes exactly those bits (rule R23). -/
def withLow (acc : Wide) (v : Word) : Wide := extPart acc ++ highPart acc ++ v
@[inherit_doc withLow] def withHigh (acc : Wide) (v : Word) : Wide := extPart acc ++ v ++ lowPart acc
@[inherit_doc withLow] def withExt (acc : Wide) (v : Byte) : Wide := v ++ highPart acc ++ lowPart acc

/-! ## The status word (rule R30) -/

/-- `SR` read as a word: bits 15:5 read as zero. -/
def Status.toWord (f : Status) : Word :=
  0#11 ++ BitVec.ofBool f.se ++ BitVec.ofBool f.n ++ BitVec.ofBool f.z ++ BitVec.ofBool f.v
    ++ BitVec.ofBool f.c

/-- `SR` written with a word: stores `v & 0x001F`. -/
def Status.ofWord (v : Word) : Status :=
  let w := v &&& Config.statusMask
  ⟨w[0], w[1], w[2], w[3], w[4]⟩

/-! ## The 16-bit register port -/

/-- R37: `Reg16(c)`. -/
def State.reg16 (s : State) : Reg → Word
  | .x0 => s.x0
  | .x1 => s.x1
  | .y0 => s.y0
  | .y1 => s.y1
  | .a => limit s.a
  | .b => limit s.b
  | .a0 => lowPart s.a
  | .b0 => lowPart s.b
  | .a1 => highPart s.a
  | .b1 => highPart s.b
  | .a2 => (extPart s.a).signExtend 16
  | .b2 => (extPart s.b).signExtend 16
  | .r0 => s.r0
  | .r1 => s.r1
  | .r2 => s.r2
  | .r3 => s.r3
  | .n0 => s.n0
  | .n1 => s.n1
  | .n2 => s.n2
  | .n3 => s.n3
  | .sr => s.sr.toWord
  | .lc => s.lc
  | .la => s.la

/-- R38: `SetReg16(c, v)`. -/
def State.setReg16 (s : State) (r : Reg) (v : Word) : State :=
  match r with
  | .x0 => s.setData .x0 v
  | .x1 => s.setData .x1 v
  | .y0 => s.setData .y0 v
  | .y1 => s.setData .y1 v
  | .a => s.setAcc .a (ext40 v)
  | .b => s.setAcc .b (ext40 v)
  | .a0 => s.setAcc .a (withLow s.a v)
  | .b0 => s.setAcc .b (withLow s.b v)
  | .a1 => s.setAcc .a (withHigh s.a v)
  | .b1 => s.setAcc .b (withHigh s.b v)
  | .a2 => s.setAcc .a (withExt s.a (v.extractLsb' 0 8))
  | .b2 => s.setAcc .b (withExt s.b (v.extractLsb' 0 8))
  | .r0 => s.setAddr .r0 v
  | .r1 => s.setAddr .r1 v
  | .r2 => s.setAddr .r2 v
  | .r3 => s.setAddr .r3 v
  | .n0 => s.setOffset .r0 v
  | .n1 => s.setOffset .r1 v
  | .n2 => s.setOffset .r2 v
  | .n3 => s.setOffset .r3 v
  | .sr => s.setSr (Status.ofWord v)
  | .lc => s.setLc v
  | .la => s.setLa v

/-! ## The addressing-mode resolver -/

/-- An addressing-mode selector with its extension word, if it has one: every row of rule R121. -/
inductive AddrMode where
  | indirect (n : AddrReg)
  | postInc (n : AddrReg)
  | postDec (n : AddrReg)
  | postAdd (n : AddrReg)
  | preDec (n : AddrReg)
  | indexed (n : AddrReg)
  | displaced (n : AddrReg) (disp : Word)
  | absolute (addr : Word)
  | immediate (imm : Word)
deriving DecidableEq, Repr

/-- The selector of a one-word mode (rule R121, `MMM` = 0 to 5). -/
def addrModeOf (mode : Mode) (n : AddrReg) : AddrMode :=
  match mode with
  | .indirect => .indirect n
  | .postInc => .postInc n
  | .postDec => .postDec n
  | .postAdd => .postAdd n
  | .preDec => .preDec n
  | .indexed => .indexed n

/-- An address-register update, applied at commit (rule R121). -/
structure Update where
  reg : AddrReg
  value : Word
deriving DecidableEq, Repr

/-- What the resolver returns (rule R120): the triple (`ea`, `imm`, `update`). -/
structure Resolved where
  ea : Option Word
  imm : Option Word
  update : Option Update
deriving DecidableEq, Repr

/-- R121: `Resolve(mode, n, word1, pre-state)`. All sums are modulo `2^16` (rule R122). -/
def resolve (mode : AddrMode) (s : State) : Resolved :=
  match mode with
  | .indirect n => ⟨some (s.addr n), none, none⟩
  | .postInc n => ⟨some (s.addr n), none, some ⟨n, s.addr n + 1⟩⟩
  | .postDec n => ⟨some (s.addr n), none, some ⟨n, s.addr n - 1⟩⟩
  | .postAdd n => ⟨some (s.addr n), none, some ⟨n, s.addr n + s.offset n⟩⟩
  | .preDec n => ⟨some (s.addr n - 1), none, some ⟨n, s.addr n - 1⟩⟩
  | .indexed n => ⟨some (s.addr n + s.offset n), none, none⟩
  | .displaced n disp => ⟨some (s.addr n + disp), none, none⟩
  | .absolute addr => ⟨some addr, none, none⟩
  | .immediate imm => ⟨none, some imm, none⟩

end Sys2Proof.Machine
end

