-- ==== Sys2Proof/Machine/Flags.lean ====
section
/-! DEFINITION. The flag pipeline: what an instruction writes to the flags (rules R31, R186), rounding
(rule R168), the product (rule R201), and the condition table (rule R241). -/

namespace Sys2Proof.Machine

/-- New values for some of the four computed flags; a flag left at `none` keeps its pre-state value
(rule R186). `SE` is written only by the loop stack and by writes to `SR` as a word (rule R30). -/
structure FlagUpdate where
  c : Option Bool := none
  v : Option Bool := none
  z : Option Bool := none
  n : Option Bool := none
deriving DecidableEq, Repr

/-- The flags after an update. -/
def FlagUpdate.apply (u : FlagUpdate) (f : Status) : Status :=
  ⟨u.c.getD f.c, u.v.getD f.v, u.z.getD f.z, u.n.getD f.n, f.se⟩

/-- `trunc_40(e)` (rule R8). -/
def trunc40 (e : Int) : Wide := BitVec.ofInt 40 e

/-- R186: the exact signed result does not fit 40-bit two's complement. -/
def overflows40 (e : Int) : Bool := decide (e < -549755813888) || decide (e > 549755813887)

/-- R186: `N`, `Z` and `V` of the exact signed result `e`. -/
def signedFlags (e : Int) : FlagUpdate where
  v := some (overflows40 e)
  z := some (trunc40 e == 0)
  n := some (trunc40 e).msb

/-- R186: `N`, `Z` and `V` with a carry. -/
def signedFlagsC (carry : Bool) (e : Int) : FlagUpdate :=
  { signedFlags e with c := some carry }

/-- R186: `N`, `Z` and `V` of a 16-bit result (the logic instructions). -/
def logicFlags (x : Word) : FlagUpdate where
  v := some false
  z := some (x == 0)
  n := some x.msb

/-- R172 to R175: the flags of the 16-bit shifts and rotates. -/
def shiftFlags (carry : Bool) (x : Word) : FlagUpdate :=
  { logicFlags x with c := some carry }

/-- R168: convergent rounding at bit 16, on any integer. -/
def round (t : Int) : Int :=
  let low := t % 65536
  let base := t - low
  if low > 32768 then base + 65536
  else if low < 32768 then base
  else if base / 65536 % 2 = 1 then base + 65536 else base

/-- R201: the exact fractional product, negated where `k = 1`. -/
def product (k : Sign) (s1 s2 : Word) : Int :=
  let p := 2 * s1.toInt * s2.toInt
  match k with
  | .plus => p
  | .minus => -p

/-- R241: the condition table, on the pre-state `SR`. `SE` takes part in none. -/
def holds (cond : Cond) (f : Status) : Bool :=
  match cond with
  | .cc => !f.c
  | .cs => f.c
  | .ne => !f.z
  | .eq => f.z
  | .pl => !f.n
  | .mi => f.n
  | .vc => !f.v
  | .vs => f.v
  | .ge => !(f.n ^^ f.v)
  | .lt => f.n ^^ f.v
  | .gt => !f.z && !(f.n ^^ f.v)
  | .le => f.z || (f.n ^^ f.v)
  | .hi => !f.c && !f.z
  | .ls => f.c || f.z
  | .al => true

end Sys2Proof.Machine
end

