-- ==== Sys2Proof/Machine/Ops.lean ====
section
/-! DEFINITION. The named operations over memory, the loop stack and the program space; the two-phase
evaluation of an opcode (rule R264); and fetching (rule R268). There is no exception entry and no return
from one: the core has no traps (rules R305, R307, R311). -/

namespace Sys2Proof.Machine

/-! ## Plain memory (log 1, log 2, log 3) -/

/-- One byte cell; an unlisted one reads as `Config.unlistedByte`. -/
def Memory.read (m : Memory) (k : Nat) : Byte :=
  match m with
  | [] => Config.unlistedByte
  | (k', v) :: rest => if k' = k then v else Memory.read rest k

/-- Drop the cell at an address. -/
def Memory.erase (m : Memory) (k : Nat) : Memory :=
  match m with
  | [] => []
  | (k', v) :: rest => if k' = k then Memory.erase rest k else (k', v) :: Memory.erase rest k

/-- Put a cell in its place among rising addresses. -/
def Memory.insert (m : Memory) (k : Nat) (v : Byte) : Memory :=
  match m with
  | [] => [(k, v)]
  | (k', v') :: rest => if k < k' then (k, v) :: (k', v') :: rest else (k', v') :: Memory.insert rest k v

/-- Write one byte cell, keeping the canonical form: the default value is not listed. -/
def Memory.write (m : Memory) (k : Nat) (v : Byte) : Memory :=
  if v = Config.unlistedByte then m.erase k else (m.erase k).insert k v

/-- One 16-bit word of a space (rule R62), low byte in the even cell (log 3). -/
def Memory.readWord (m : Memory) (addr : Word) : Word :=
  m.read (2 * addr.toNat + 1) ++ m.read (2 * addr.toNat)

/-- Write one 16-bit word of a space. -/
def Memory.writeWord (m : Memory) (addr v : Word) : Memory :=
  (m.write (2 * addr.toNat) (v.extractLsb' 0 8)).write (2 * addr.toNat + 1) (v.extractLsb' 8 8)

/-- R60: `MemRead(addr, 1)`, answered by plain memory (log 1). -/
def State.memRead (s : State) (addr : Word) : Word := s.xmem.readWord addr

/-- R60: `MemWrite(addr, 1, v)`. -/
def State.memWrite (s : State) (addr v : Word) : State := { s with xmem := s.xmem.writeWord addr v }

/-- R61: `Fetch(addr)`. -/
def State.fetch (s : State) (addr : Word) : Word := s.pmem.readWord addr

/-! ## The loop stack (rules R34, R35) -/

/-- `LS[i]`, for `i` from 0 to 7. -/
def LoopStack.get (ls : LoopStack) (i : Nat) : LoopEntry :=
  match i with
  | 0 => ls.e0
  | 1 => ls.e1
  | 2 => ls.e2
  | 3 => ls.e3
  | 4 => ls.e4
  | 5 => ls.e5
  | 6 => ls.e6
  | _ => ls.e7

/-- `LS[i] <- e`, for `i` from 0 to 7. -/
def LoopStack.set (ls : LoopStack) (i : Nat) (e : LoopEntry) : LoopStack :=
  match i with
  | 0 => { ls with e0 := e }
  | 1 => { ls with e1 := e }
  | 2 => { ls with e2 := e }
  | 3 => { ls with e3 := e }
  | 4 => { ls with e4 := e }
  | 5 => { ls with e5 := e }
  | 6 => { ls with e6 := e }
  | _ => { ls with e7 := e }

/-- Set the sticky loop-stack error flag (rule R30). -/
def State.setSe (s : State) : State := s.setSr { s.sr with se := true }

/-- Replace the loop stack and its count. -/
def State.setLoop (s : State) (ls : LoopStack) (lsp : Nat) : State := { s with ls := ls, lsp := lsp }

/-- R34: `push_loop` of the pair (`la`, `lc`). -/
def State.pushLoop (s : State) (la lc : Word) : State :=
  if s.lsp < Config.loopDepth then s.setLoop (s.ls.set s.lsp ⟨la, lc⟩) (s.lsp + 1)
  else (s.setLoop (s.ls.set 7 ⟨la, lc⟩) s.lsp).setSe

/-- R35: `pop_loop`; the popped entry stays in `LS`. -/
def State.popLoop (s : State) : State :=
  if s.lsp = 0 then s.setSe
  else
    let e := s.ls.get (s.lsp - 1)
    ((s.setLoop s.ls (s.lsp - 1)).setLa e.la).setLc e.lc

/-! ## Evaluation (rule R264) -/

/-- One write of the commit phase. -/
inductive Write where
  /-- `SetReg16(c, v)`. -/
  | reg (c : Reg) (v : Word)
  /-- A whole accumulator, all 40 bits. -/
  | acc (d : Acc) (v : Wide)
  /-- `MemWrite(addr, 1, v)`. -/
  | mem (addr v : Word)
  /-- `push_loop` of the pre-state pair. -/
  | push (la lc : Word)
  /-- `pop_loop`. -/
  | pop
  /-- The flags of the flags-modified set. -/
  | flags (u : FlagUpdate)
deriving DecidableEq, Repr

/-- Apply one write. -/
def Write.apply (w : Write) (s : State) : State :=
  match w with
  | .reg c v => s.setReg16 c v
  | .acc d v => s.setAcc d v
  | .mem addr v => s.memWrite addr v
  | .push la lc => s.pushLoop la lc
  | .pop => s.popLoop
  | .flags u => s.setSr (u.apply s.sr)

/-- Apply writes in order. -/
def applyWrites (ws : List Write) (s : State) : State := ws.foldl (fun t w => w.apply t) s

/-- Apply address-register updates in order. -/
def applyUpdates (us : List Update) (s : State) : State :=
  us.foldl (fun t u => t.setAddr u.reg u.value) s

/-- One half of an opcode after the resolve phase: what it will do at commit, all computed from the
pre-state, given the host's answers to its reads (rule R264, steps 1 and 2). -/
structure Half where
  /-- Address-register updates (step 3). -/
  updates : List Update := []
  /-- The addresses handed to `MemRead`, in order (rule R66). -/
  reads : List Word := []
  /-- The writes, in order, as a function of the answers to `reads` (steps 4 and 5). -/
  writes : List Word → List Write := fun _ => []
  /-- The instruction's override of the program counter (step 6). -/
  target : Option Word := none

/-- The k-th answer of the host; `reads` asks for as many as a half uses. -/
def answer (answers : List Word) (k : Nat) : Word := answers.getD k 0

/-- The update list of a resolution. -/
def updateList (r : Resolved) : List Update := r.update.toList

/-- R264 for any answers of the host (93_implementation_defined.md I3): the address-register updates,
the instruction's writes, the move's writes, the program counter. -/
def evaluateWith (size : Nat) (mv ins : Half) (moveAnswers instrAnswers : List Word) (s : State) : State :=
  let s1 := applyUpdates (mv.updates ++ ins.updates) s
  let s2 := applyWrites (ins.writes instrAnswers) s1
  let s3 := applyWrites (mv.writes moveAnswers) s2
  s3.setPc (ins.target.getD (s.pc + BitVec.ofNat 16 size))

/-- R264 with the answers of plain memory (log 1). Evaluation never fails (rule R265). -/
def evaluate (size : Nat) (mv ins : Half) (s : State) : Result :=
  .next (evaluateWith size mv ins (mv.reads.map s.memRead) (ins.reads.map s.memRead) s)

/-! ## Fetch and decode (rule R268) -/

/-- The decode of the opcode at `pc`: the second word is fetched only where the first needs it. -/
def State.decodeAtPc (s : State) : Except DecodeError Instr :=
  match decode (s.fetch s.pc) none with
  | .error ⟨.incompleteFetch, _⟩ => decode (s.fetch s.pc) (some (s.fetch (s.pc + 1)))
  | r => r

/-- Store an opcode's two words at `pc` in P space, as the host does before a run (log 10). -/
def State.loadAtPc (s : State) (word0 word1 : Word) : State :=
  { s with pmem := (s.pmem.writeWord s.pc word0).writeWord (s.pc + 1) word1 }

/-- R320: reset in place, at any opcode boundary; memory is the host's and is kept. -/
def State.resetInPlace (s : State) : State :=
  { State.reset with xmem := s.xmem, pmem := s.pmem }

end Sys2Proof.Machine
end

