-- ==== Sys2Proof/Machine/Moves.lean ====
section
/-! DEFINITION. The parallel moves (rules R140 to R152): the move half of formats P and D, the empty
instruction half, and the opcodes that pair a format P move with `NOP` (log 4). -/

namespace Sys2Proof.Machine

/-- R141: the empty move. -/
def emptyHalf : Half := {}

/-- R162: the instruction half of `NOP`. -/
def nopHalf : Half := {}

/-- R142 to R147: the move half of a format P opcode. -/
def moveHalf (m : PMove) (s : State) : Half :=
  match m with
  | .empty => emptyHalf
  | .regmove src dst =>
    { writes := fun _ => [.reg (moveName dst) (s.reg16 (moveName src))] }
  | .immload imm dst =>
    { writes := fun _ => [.reg (moveName dst) imm] }
  | .absread addr dst =>
    { reads := [addr], writes := fun ans => [.reg (moveName dst) (answer ans 0)] }
  | .abswrite src addr =>
    { writes := fun _ => [.mem addr (s.reg16 (moveName src))] }
  | .memread rn dst =>
    { updates := updateList (resolve (.postInc rn) s)
      reads := (resolve (.postInc rn) s).ea.toList
      writes := fun ans => [.reg (moveName dst) (answer ans 0)] }
  | .memwrite src rn =>
    { updates := updateList (resolve (.postInc rn) s)
      writes := fun _ =>
        (resolve (.postInc rn) s).ea.toList.map fun ea => .mem ea (s.reg16 (moveName src)) }

/-- R148 and R149: the move half of a format D opcode; slot 1 before slot 2. -/
def dualHalf (m : DMove) (s : State) : Half :=
  match m with
  | .dualread base mode1 dst1 mode2 dst2 =>
    let r1 := resolve (addrModeOf (dualModeOfMode mode1) (slot1Addr base)) s
    let r2 := resolve (addrModeOf (dualModeOfMode mode2) .r3) s
    { updates := updateList r1 ++ updateList r2
      reads := r1.ea.toList ++ r2.ea.toList
      writes := fun ans => [.reg (xName dst1) (answer ans 0), .reg (yName dst2) (answer ans 1)] }
  | .dualreg src1 dst1 src2 dst2 =>
    { writes := fun _ =>
        [.reg (dataName dst1) (s.reg16 (dataName src1)), .reg (dataName dst2) (s.reg16 (accName src2))] }

/-- A format P opcode: a move and an instruction, of the move's size (rules R83, R264). -/
def evaluateP (m : PMove) (ins : Half) (s : State) : Result :=
  evaluate m.size (moveHalf m s) ins s

/-- A format D opcode, one word long (rules R87, R264). -/
def evaluateD (m : DMove) (ins : Half) (s : State) : Result :=
  evaluate 1 (dualHalf m s) ins s

/-- A format N opcode: its move is the empty move (rules R90, R264). -/
def evaluateN (size : Nat) (ins : Half) (s : State) : Result :=
  evaluate size emptyHalf ins s

/-- R141 with `NOP`. -/
def execEmpty (s : State) : Result := evaluateP .empty nopHalf s

/-- R142 with `NOP`. -/
def execRegmove (src dst : MoveReg) (s : State) : Result := evaluateP (.regmove src dst) nopHalf s

/-- R143 with `NOP`. -/
def execImmload (imm : Word) (dst : MoveReg) (s : State) : Result :=
  evaluateP (.immload imm dst) nopHalf s

/-- R144 with `NOP`. -/
def execAbsread (addr : Word) (dst : MoveReg) (s : State) : Result :=
  evaluateP (.absread addr dst) nopHalf s

/-- R145 with `NOP`. -/
def execAbswrite (src : MoveReg) (addr : Word) (s : State) : Result :=
  evaluateP (.abswrite src addr) nopHalf s

/-- R146 with `NOP`. -/
def execMemread (rn : AddrReg) (dst : MoveReg) (s : State) : Result :=
  evaluateP (.memread rn dst) nopHalf s

/-- R147 with `NOP`. -/
def execMemwrite (src : MoveReg) (rn : AddrReg) (s : State) : Result :=
  evaluateP (.memwrite src rn) nopHalf s

/-- R162: the format N `NOP`. -/
def execNop (s : State) : Result := evaluateN 1 nopHalf s

end Sys2Proof.Machine
end

