-- ==== Sys2Proof/Machine/BitOps.lean ====
section
/-! DEFINITION. The bit instructions (rules R210 to R216) on a register and on a memory word. -/

namespace Sys2Proof.Machine

/-- The bit mask `1 << b`. -/
def bitMask (bit : BitVec 4) : Word := 1#16 <<< bit.toNat

/-- R211: `C <- v[b]`, the other flags unchanged. -/
def bitFlag (bit : BitVec 4) (v : Word) : FlagUpdate := { c := some (v.getLsbD bit.toNat) }

/-- R214: the value `BSET` writes. -/
def setBit (bit : BitVec 4) (v : Word) : Word := v ||| bitMask bit

/-- R215: the value `BCLR` writes. -/
def clearBit (bit : BitVec 4) (v : Word) : Word := v &&& ~~~bitMask bit

/-- R216: the value `BCHG` writes. -/
def changeBit (bit : BitVec 4) (v : Word) : Word := v ^^^ bitMask bit

/-- R211 on a register: the operand is always written back. -/
def bitRegHalf (f : Word → Word) (bit : BitVec 4) (r : Reg) (s : State) : Half :=
  { writes := fun _ => [.reg r (f (s.reg16 r)), .flags (bitFlag bit (s.reg16 r))] }

/-- R211 on `X:(Rn)`: one read, then one write to the same address, also when nothing changes. -/
def bitMemHalf (f : Word → Word) (bit : BitVec 4) (rn : AddrReg) (s : State) : Half :=
  { reads := [s.addr rn]
    writes := fun ans => [.mem (s.addr rn) (f (answer ans 0)), .flags (bitFlag bit (answer ans 0))] }

/-- R213 on a register: nothing is written back. -/
def btstRegHalf (bit : BitVec 4) (r : Reg) (s : State) : Half :=
  { writes := fun _ => [.flags (bitFlag bit (s.reg16 r))] }

/-- R213 on `X:(Rn)`: one read, no write. -/
def btstMemHalf (bit : BitVec 4) (rn : AddrReg) (s : State) : Half :=
  { reads := [s.addr rn], writes := fun ans => [.flags (bitFlag bit (answer ans 0))] }

/-- R213, register. -/
def execBtstReg (bit : BitVec 4) (r : Reg) (s : State) : Result := evaluateN 1 (btstRegHalf bit r s) s

/-- R213, memory. -/
def execBtstMem (bit : BitVec 4) (rn : AddrReg) (s : State) : Result :=
  evaluateN 1 (btstMemHalf bit rn s) s

/-- R214, register. -/
def execBsetReg (bit : BitVec 4) (r : Reg) (s : State) : Result :=
  evaluateN 1 (bitRegHalf (setBit bit) bit r s) s

/-- R214, memory. -/
def execBsetMem (bit : BitVec 4) (rn : AddrReg) (s : State) : Result :=
  evaluateN 1 (bitMemHalf (setBit bit) bit rn s) s

/-- R215, register. -/
def execBclrReg (bit : BitVec 4) (r : Reg) (s : State) : Result :=
  evaluateN 1 (bitRegHalf (clearBit bit) bit r s) s

/-- R215, memory. -/
def execBclrMem (bit : BitVec 4) (rn : AddrReg) (s : State) : Result :=
  evaluateN 1 (bitMemHalf (clearBit bit) bit rn s) s

/-- R216, register. -/
def execBchgReg (bit : BitVec 4) (r : Reg) (s : State) : Result :=
  evaluateN 1 (bitRegHalf (changeBit bit) bit r s) s

/-- R216, memory. -/
def execBchgMem (bit : BitVec 4) (rn : AddrReg) (s : State) : Result :=
  evaluateN 1 (bitMemHalf (changeBit bit) bit rn s) s

end Sys2Proof.Machine
end

