-- ==== Sys2Proof/Machine/Control.lean ====
section
/-! DEFINITION. Branches, jumps and loop control (rules R240 to R251). -/

namespace Sys2Proof.Machine

/-- R240: a transfer that is taken overrides `pc`; otherwise `pc` advances by the size. -/
def transferHalf (taken : Bool) (target : Word) : Half :=
  { target := if taken then some target else none }

/-- R246 and R247: save the pre-state (`LA`, `LC`), `LA <- pc + 1`, `LC <- count`. -/
def doHalf (count : Word) (s : State) : Half :=
  { writes := fun _ => [.reg .la (s.pc + 1), .reg .lc count, .push s.la s.lc] }

/-- R248: `NEXT` counts `LC` down and loops back, or pops on the last iteration. -/
def nextHalf (s : State) : Half :=
  if s.lc - 1 = 0 then { writes := fun _ => [.pop] }
  else { writes := fun _ => [.reg .lc (s.lc - 1)], target := some s.la }

/-- R249: `ENDDO` pops. -/
def enddoHalf : Half := { writes := fun _ => [.pop] }

/-- R242: `Bcc` short. -/
def execBccShort (cond : Cond) (disp : BitVec 6) (s : State) : Result :=
  evaluateN 1 (transferHalf (holds cond s.sr) (s.pc + 1 + disp.signExtend 16)) s

/-- R243: `Bcc` long. -/
def execBccLong (cond : Cond) (disp : Word) (s : State) : Result :=
  evaluateN 2 (transferHalf (holds cond s.sr) (s.pc + 2 + disp)) s

/-- R244: `Jcc xxxx`. -/
def execJccAbs (cond : Cond) (target : Word) (s : State) : Result :=
  evaluateN 2 (transferHalf (holds cond s.sr) target) s

/-- R245: `Jcc (Rn)`: the target is the value of `Rn`. -/
def execJccReg (cond : Cond) (rn : AddrReg) (s : State) : Result :=
  evaluateN 1 (transferHalf (holds cond s.sr) (s.addr rn)) s

/-- R246: `DO #xx`. -/
def execDoImm (count : BitVec 8) (s : State) : Result :=
  evaluateN 1 (doHalf (count.setWidth 16) s) s

/-- R247: `DO S`. -/
def execDoReg (src : Reg) (s : State) : Result := evaluateN 1 (doHalf (s.reg16 src) s) s

/-- R248. -/
def execNext (s : State) : Result := evaluateN 1 (nextHalf s) s

/-- R249. -/
def execEnddo (s : State) : Result := evaluateN 1 enddoHalf s

end Sys2Proof.Machine
end

