-- ==== Sys2Proof/Machine/Alu.lean ====
section
/-! DEFINITION. Arithmetic, logic, shift and transfer instructions (rules R160 to R187): the
instruction halves, then one meaning per opcode. -/

namespace Sys2Proof.Machine

/-! ## Shared operations -/

/-- A 40-bit result into `D`, then flags. -/
def accResult (d : Acc) (r : Wide) (u : FlagUpdate) : Half :=
  { writes := fun _ => [.acc d r, .flags u] }

/-- A 16-bit result into the high word of `D`, the rest of `D` unchanged, then flags. -/
def highResult (d : Acc) (x : Word) (u : FlagUpdate) : Half :=
  { writes := fun _ => [.reg (highName d) x, .flags u] }

/-- Flags only. -/
def flagResult (u : FlagUpdate) : Half := { writes := fun _ => [.flags u] }

/-- The carry and the exact signed sum of two 40-bit operands (rule R178). -/
def addFlags (x y : Wide) : FlagUpdate :=
  signedFlagsC (decide (x.toNat + y.toNat ≥ 2 ^ 40)) (x.toInt + y.toInt)

/-- The borrow and the exact signed difference of two 40-bit operands (rule R179). -/
def subFlags (x y : Wide) : FlagUpdate :=
  signedFlagsC (decide (x.toNat < y.toNat)) (x.toInt - y.toInt)

/-- R178: `D <- trunc_40(u_40(D) + u_40(s))`. -/
def addHalf (d : Acc) (src : Wide) (s : State) : Half :=
  accResult d (trunc40 ((s.acc d).toNat + src.toNat)) (addFlags (s.acc d) src)

/-- R179: `D <- trunc_40(u_40(D) - u_40(s))`. -/
def subHalf (d : Acc) (src : Wide) (s : State) : Half :=
  accResult d (trunc40 ((s.acc d).toNat - src.toNat)) (subFlags (s.acc d) src)

/-- R180: the flags of `SUB`; `D` is not written. -/
def cmpHalf (d : Acc) (src : Wide) (s : State) : Half :=
  flagResult (subFlags (s.acc d) src)

/-- R181: `AND` on the high word. -/
def andHalf (d : Acc) (src : Word) (s : State) : Half :=
  let x := highPart (s.acc d) &&& src
  highResult d x (logicFlags x)

/-- R182: `OR` on the high word. -/
def orHalf (d : Acc) (src : Word) (s : State) : Half :=
  let x := highPart (s.acc d) ||| src
  highResult d x (logicFlags x)

/-- R183: `EOR` on the high word. -/
def eorHalf (d : Acc) (src : Word) (s : State) : Half :=
  let x := highPart (s.acc d) ^^^ src
  highResult d x (logicFlags x)

/-! ## One-operand instructions -/

/-- R163: `CLR D`. -/
def clrHalf (d : Acc) : Half :=
  accResult d 0 { v := some false, z := some true, n := some false }

/-- R164: `TST D`. -/
def tstHalf (d : Acc) (s : State) : Half :=
  flagResult { v := some false, z := some (s.acc d == 0), n := some (s.acc d).msb }

/-- R165: `ABS D`. -/
def absHalf (d : Acc) (s : State) : Half :=
  let e : Int := (s.acc d).toInt.natAbs
  accResult d (trunc40 e) (signedFlags e)

/-- R166: `NEG D`. -/
def negHalf (d : Acc) (s : State) : Half :=
  let e := -(s.acc d).toInt
  accResult d (trunc40 e) (signedFlagsC (s.acc d != 0) e)

/-- R167: `NOT D`. -/
def notHalf (d : Acc) (s : State) : Half :=
  let x := ~~~highPart (s.acc d)
  highResult d x (logicFlags x)

/-- R168: `RND D`. -/
def rndHalf (d : Acc) (s : State) : Half :=
  let e := round (s.acc d).toInt
  accResult d (trunc40 e) (signedFlags e)

/-- R169: `TFR D',D`, all 40 bits, no flags. -/
def tfrAccHalf (d : Acc) (s : State) : Half :=
  { writes := fun _ => [.acc d (s.acc (otherAcc d))] }

/-! ## Shifts and rotates -/

/-- R170: `ASL D`. -/
def aslHalf (d : Acc) (s : State) : Half :=
  let v := s.acc d
  let r := trunc40 (v.toNat * 2)
  accResult d r
    { c := some v[39], v := some (v[39] ^^ v[38]), z := some (r == 0), n := some r.msb }

/-- R171: `ASR D`. -/
def asrHalf (d : Acc) (s : State) : Half :=
  let v := s.acc d
  let r : Wide := BitVec.ofBool v[39] ++ v.extractLsb' 1 39
  accResult d r { c := some v[0], v := some false, z := some (r == 0), n := some r.msb }

/-- R172: `LSL D`, on the high word. -/
def lslHalf (d : Acc) (s : State) : Half :=
  let d1 := highPart (s.acc d)
  let x : Word := d1.extractLsb' 0 15 ++ 0#1
  highResult d x (shiftFlags d1[15] x)

/-- R173: `LSR D`, on the high word. -/
def lsrHalf (d : Acc) (s : State) : Half :=
  let d1 := highPart (s.acc d)
  let x : Word := 0#1 ++ d1.extractLsb' 1 15
  highResult d x (shiftFlags d1[0] x)

/-- R174: `ROL D`, the pre-state carry enters at the low end of the high word. -/
def rolHalf (d : Acc) (s : State) : Half :=
  let d1 := highPart (s.acc d)
  let x : Word := d1.extractLsb' 0 15 ++ BitVec.ofBool s.sr.c
  highResult d x (shiftFlags d1[15] x)

/-- R175: `ROR D`, the pre-state carry enters at the high end of the high word. -/
def rorHalf (d : Acc) (s : State) : Half :=
  let d1 := highPart (s.acc d)
  let x : Word := BitVec.ofBool s.sr.c ++ d1.extractLsb' 1 15
  highResult d x (shiftFlags d1[0] x)

/-! ## Increment, decrement, transfers -/

/-- R176: `INC D`, as `ADD` with the 40-bit source 1. -/
def incHalf (d : Acc) (s : State) : Half := addHalf d 1 s

/-- R177: `DEC D`, as `SUB` with the 40-bit source 1. -/
def decHalf (d : Acc) (s : State) : Half := subHalf d 1 s

/-- R184: `TFR S,D` from a data register. -/
def tfrDataHalf (src : DataReg) (d : Acc) (s : State) : Half :=
  { writes := fun _ => [.acc d (ext40 (s.data src))] }

/-- R185: `TFR Rn,D`, the pre-state `Rn`. -/
def tfrAddrHalf (rn : AddrReg) (d : Acc) (s : State) : Half :=
  { writes := fun _ => [.acc d (ext40 (s.addr rn))] }

/-! ## Meanings -/

/-- R163. -/
def execClr (m : PMove) (d : Acc) (s : State) : Result := evaluateP m (clrHalf d) s

/-- R164. -/
def execTst (m : PMove) (d : Acc) (s : State) : Result := evaluateP m (tstHalf d s) s

/-- R165. -/
def execAbs (m : PMove) (d : Acc) (s : State) : Result := evaluateP m (absHalf d s) s

/-- R166. -/
def execNeg (m : PMove) (d : Acc) (s : State) : Result := evaluateP m (negHalf d s) s

/-- R167. -/
def execNot (m : PMove) (d : Acc) (s : State) : Result := evaluateP m (notHalf d s) s

/-- R168. -/
def execRnd (m : PMove) (d : Acc) (s : State) : Result := evaluateP m (rndHalf d s) s

/-- R169. -/
def execTfrAcc (m : PMove) (d : Acc) (s : State) : Result := evaluateP m (tfrAccHalf d s) s

/-- R170. -/
def execAsl (m : PMove) (d : Acc) (s : State) : Result := evaluateP m (aslHalf d s) s

/-- R171. -/
def execAsr (m : PMove) (d : Acc) (s : State) : Result := evaluateP m (asrHalf d s) s

/-- R172. -/
def execLsl (m : PMove) (d : Acc) (s : State) : Result := evaluateP m (lslHalf d s) s

/-- R173. -/
def execLsr (m : PMove) (d : Acc) (s : State) : Result := evaluateP m (lsrHalf d s) s

/-- R174. -/
def execRol (m : PMove) (d : Acc) (s : State) : Result := evaluateP m (rolHalf d s) s

/-- R175. -/
def execRor (m : PMove) (d : Acc) (s : State) : Result := evaluateP m (rorHalf d s) s

/-- R176. -/
def execInc (m : PMove) (d : Acc) (s : State) : Result := evaluateP m (incHalf d s) s

/-- R177. -/
def execDec (m : PMove) (d : Acc) (s : State) : Result := evaluateP m (decHalf d s) s

/-- R178, `S` a data register at `ext40` (rule R187). -/
def execAdd (m : PMove) (src : DataReg) (d : Acc) (s : State) : Result :=
  evaluateP m (addHalf d (ext40 (s.data src)) s) s

/-- R178, `S` the other accumulator at all 40 bits (rule R187). -/
def execAddAcc (m : PMove) (d : Acc) (s : State) : Result :=
  evaluateP m (addHalf d (s.acc (otherAcc d)) s) s

/-- R179, `S` a data register. -/
def execSub (m : PMove) (src : DataReg) (d : Acc) (s : State) : Result :=
  evaluateP m (subHalf d (ext40 (s.data src)) s) s

/-- R179, `S` the other accumulator. -/
def execSubAcc (m : PMove) (d : Acc) (s : State) : Result :=
  evaluateP m (subHalf d (s.acc (otherAcc d)) s) s

/-- R180, `S` a data register. -/
def execCmp (m : PMove) (src : DataReg) (d : Acc) (s : State) : Result :=
  evaluateP m (cmpHalf d (ext40 (s.data src)) s) s

/-- R180, `S` the other accumulator. -/
def execCmpAcc (m : PMove) (d : Acc) (s : State) : Result :=
  evaluateP m (cmpHalf d (s.acc (otherAcc d)) s) s

/-- R181. -/
def execAnd (m : PMove) (src : DataReg) (d : Acc) (s : State) : Result :=
  evaluateP m (andHalf d (s.data src) s) s

/-- R184. -/
def execTfrData (m : PMove) (src : DataReg) (d : Acc) (s : State) : Result :=
  evaluateP m (tfrDataHalf src d s) s

/-- R182. -/
def execOr (m : PMove) (src : DataReg) (d : Acc) (s : State) : Result :=
  evaluateP m (orHalf d (s.data src) s) s

/-- R185. -/
def execTfrAddr (m : PMove) (rn : AddrReg) (d : Acc) (s : State) : Result :=
  evaluateP m (tfrAddrHalf rn d s) s

/-- R183. -/
def execEor (m : PMove) (src : DataReg) (d : Acc) (s : State) : Result :=
  evaluateP m (eorHalf d (s.data src) s) s

end Sys2Proof.Machine
end

