-- ==== Sys2Proof/Machine/Immediate.lean ====
section
/-! DEFINITION. Accumulator-immediate and status-register immediate instructions (rules R223 to R231). -/

namespace Sys2Proof.Machine

/-- R223: `ADD` with the source `ext40(word1)`. -/
def execAddi (imm : Word) (d : Acc) (s : State) : Result := evaluateN 2 (addHalf d (ext40 imm) s) s

/-- R224: `SUB` with the source `ext40(word1)`. -/
def execSubi (imm : Word) (d : Acc) (s : State) : Result := evaluateN 2 (subHalf d (ext40 imm) s) s

/-- R225: `CMP` with the source `ext40(word1)`. -/
def execCmpi (imm : Word) (d : Acc) (s : State) : Result := evaluateN 2 (cmpHalf d (ext40 imm) s) s

/-- R226: `AND` with the mask `word1`. -/
def execAndi (imm : Word) (d : Acc) (s : State) : Result := evaluateN 2 (andHalf d imm s) s

/-- R227: `OR` with the mask `word1`. -/
def execOri (imm : Word) (d : Acc) (s : State) : Result := evaluateN 2 (orHalf d imm s) s

/-- R228: `EOR` with the mask `word1`. -/
def execEori (imm : Word) (d : Acc) (s : State) : Result := evaluateN 2 (eorHalf d imm s) s

/-- R229: `SR <- SR & (0xFF00 | i) & 0x001F`; the last mask is the register port's (rule R38). -/
def andcHalf (imm : BitVec 8) (s : State) : Half :=
  { writes := fun _ => [.reg .sr (s.sr.toWord &&& (0xFF00 ||| imm.setWidth 16))] }

/-- R230: `SR <- (SR | i) & 0x001F`. -/
def orcHalf (imm : BitVec 8) (s : State) : Half :=
  { writes := fun _ => [.reg .sr (s.sr.toWord ||| imm.setWidth 16)] }

/-- R229. -/
def execAndc (imm : BitVec 8) (s : State) : Result := evaluateN 1 (andcHalf imm s) s

/-- R230. -/
def execOrc (imm : BitVec 8) (s : State) : Result := evaluateN 1 (orcHalf imm s) s

end Sys2Proof.Machine
end

