-- ==== Sys2Proof/Machine/MovesN.lean ====
section
/-! DEFINITION. The format N `MOVE` in its three forms over every addressing mode (rules R220 to R222). -/

namespace Sys2Proof.Machine

/-- R220: `MOVE S,D`. -/
def moveRegHalf (src dst : Reg) (s : State) : Half :=
  { writes := fun _ => [.reg dst (s.reg16 src)] }

/-- R221: a load or an immediate, by whichever of `ea` and `imm` the resolver gives; the update is
applied before the register is written (rule R126). -/
def loadHalf (dst : Reg) (mode : AddrMode) (s : State) : Half :=
  let r := resolve mode s
  match r.imm with
  | some imm => { updates := updateList r, writes := fun _ => [.reg dst imm] }
  | none =>
    { updates := updateList r
      reads := r.ea.toList
      writes := fun ans => [.reg dst (answer ans 0)] }

/-- R222: a store of the pre-state register (rule R126). -/
def storeHalf (src : Reg) (mode : AddrMode) (s : State) : Half :=
  let r := resolve mode s
  { updates := updateList r
    writes := fun _ => r.ea.toList.map fun ea => .mem ea (s.reg16 src) }

/-- R220. -/
def execMoveReg (src dst : Reg) (s : State) : Result := evaluateN 1 (moveRegHalf src dst s) s

/-- R221, modes 0 to 5. -/
def execMoveLoad (dst : Reg) (mode : Mode) (rn : AddrReg) (s : State) : Result :=
  evaluateN 1 (loadHalf dst (addrModeOf mode rn) s) s

/-- R221, mode 6. -/
def execMoveLoadDisp (dst : Reg) (rn : AddrReg) (disp : Word) (s : State) : Result :=
  evaluateN 2 (loadHalf dst (.displaced rn disp) s) s

/-- R221, mode 7 with `RR = 0`. -/
def execMoveLoadAbs (dst : Reg) (addr : Word) (s : State) : Result :=
  evaluateN 2 (loadHalf dst (.absolute addr) s) s

/-- R221, mode 7 with `RR = 1`. -/
def execMoveImm (dst : Reg) (imm : Word) (s : State) : Result :=
  evaluateN 2 (loadHalf dst (.immediate imm) s) s

/-- R222, modes 0 to 5. -/
def execMoveStore (src : Reg) (mode : Mode) (rn : AddrReg) (s : State) : Result :=
  evaluateN 1 (storeHalf src (addrModeOf mode rn) s) s

/-- R222, mode 6. -/
def execMoveStoreDisp (src : Reg) (rn : AddrReg) (disp : Word) (s : State) : Result :=
  evaluateN 2 (storeHalf src (.displaced rn disp) s) s

/-- R222, mode 7 with `RR = 0`. -/
def execMoveStoreAbs (src : Reg) (addr : Word) (s : State) : Result :=
  evaluateN 2 (storeHalf src (.absolute addr) s) s

end Sys2Proof.Machine
end

