-- ==== Sys2Proof/Machine/Multiply.lean ====
section
/-! DEFINITION. Multiply and multiply-accumulate (rules R200 to R207), in format P and format D. -/

namespace Sys2Proof.Machine

/-- R201 and R202: the product of a source pair, on the pre-state. -/
def pairProduct (k : Sign) (q : Pair) (s : State) : Int :=
  product k (s.data (pairFst q)) (s.data (pairSnd q))

/-- R203: `D <- trunc_40(e)` and the flags of `e`. -/
def mulResult (d : Acc) (e : Int) : Half := accResult d (trunc40 e) (signedFlags e)

/-- R204: `MPY`. -/
def mpyHalf (k : Sign) (q : Pair) (d : Acc) (s : State) : Half :=
  mulResult d (pairProduct k q s)

/-- R205: `MPYR`. -/
def mpyrHalf (k : Sign) (q : Pair) (d : Acc) (s : State) : Half :=
  mulResult d (round (pairProduct k q s))

/-- R206: `MAC`. -/
def macHalf (k : Sign) (q : Pair) (d : Acc) (s : State) : Half :=
  mulResult d ((s.acc d).toInt + pairProduct k q s)

/-- R207: `MACR`, one rounding of the exact sum. -/
def macrHalf (k : Sign) (q : Pair) (d : Acc) (s : State) : Half :=
  mulResult d (round ((s.acc d).toInt + pairProduct k q s))

/-- R204, format P. -/
def execMpy (m : PMove) (k : Sign) (q : Pair) (d : Acc) (s : State) : Result :=
  evaluateP m (mpyHalf k q d s) s

/-- R205, format P. -/
def execMpyr (m : PMove) (k : Sign) (q : Pair) (d : Acc) (s : State) : Result :=
  evaluateP m (mpyrHalf k q d s) s

/-- R206, format P. -/
def execMac (m : PMove) (k : Sign) (q : Pair) (d : Acc) (s : State) : Result :=
  evaluateP m (macHalf k q d s) s

/-- R207, format P. -/
def execMacr (m : PMove) (k : Sign) (q : Pair) (d : Acc) (s : State) : Result :=
  evaluateP m (macrHalf k q d s) s

/-- R148 with R204. -/
def execDualread (base : Slot1Base) (mode1 : DualMode) (dst1 : XReg) (mode2 : DualMode) (dst2 : YReg)
    (k : Sign) (q : DualPair) (d : Acc) (s : State) : Result :=
  evaluateD (.dualread base mode1 dst1 mode2 dst2) (mpyHalf k (dualPairOfPair q) d s) s

/-- R149 with R204. -/
def execDualreg (src1 dst1 : DataReg) (src2 : Acc) (dst2 : DataReg) (k : Sign) (q : DualPair) (d : Acc)
    (s : State) : Result :=
  evaluateD (.dualreg src1 dst1 src2 dst2) (mpyHalf k (dualPairOfPair q) d s) s

/-- R205, format D. -/
def execMpyrD (m : DMove) (k : Sign) (q : DualPair) (d : Acc) (s : State) : Result :=
  evaluateD m (mpyrHalf k (dualPairOfPair q) d s) s

/-- R206, format D. -/
def execMacD (m : DMove) (k : Sign) (q : DualPair) (d : Acc) (s : State) : Result :=
  evaluateD m (macHalf k (dualPairOfPair q) d s) s

/-- R207, format D. -/
def execMacrD (m : DMove) (k : Sign) (q : DualPair) (d : Acc) (s : State) : Result :=
  evaluateD m (macrHalf k (dualPairOfPair q) d s) s

end Sys2Proof.Machine
end

