-- ==== Sys2Proof/Machine/Dispatch.lean ====
section
/-! DEFINITION. One arm per constructor of `Instr`, each one direct call of its meaning. -/

namespace Sys2Proof.Machine

/-- `Opcode.evaluate` (rules R11, R264) on plain memory. -/
def exec (i : Instr) (s : State) : Host.Outcome State Fault Refusal :=
  match i with
  | .empty => Sys2Proof.Machine.execEmpty s
  | .regmove src dst => Sys2Proof.Machine.execRegmove src dst s
  | .immload imm dst => Sys2Proof.Machine.execImmload imm dst s
  | .absread addr dst => Sys2Proof.Machine.execAbsread addr dst s
  | .abswrite src addr => Sys2Proof.Machine.execAbswrite src addr s
  | .memread rn dst => Sys2Proof.Machine.execMemread rn dst s
  | .memwrite src rn => Sys2Proof.Machine.execMemwrite src rn s
  | .clr m d => Sys2Proof.Machine.execClr m d s
  | .tst m d => Sys2Proof.Machine.execTst m d s
  | .abs m d => Sys2Proof.Machine.execAbs m d s
  | .neg m d => Sys2Proof.Machine.execNeg m d s
  | .not m d => Sys2Proof.Machine.execNot m d s
  | .rnd m d => Sys2Proof.Machine.execRnd m d s
  | .tfrAcc m d => Sys2Proof.Machine.execTfrAcc m d s
  | .asl m d => Sys2Proof.Machine.execAsl m d s
  | .asr m d => Sys2Proof.Machine.execAsr m d s
  | .lsl m d => Sys2Proof.Machine.execLsl m d s
  | .lsr m d => Sys2Proof.Machine.execLsr m d s
  | .rol m d => Sys2Proof.Machine.execRol m d s
  | .ror m d => Sys2Proof.Machine.execRor m d s
  | .inc m d => Sys2Proof.Machine.execInc m d s
  | .dec m d => Sys2Proof.Machine.execDec m d s
  | .add m src d => Sys2Proof.Machine.execAdd m src d s
  | .addAcc m d => Sys2Proof.Machine.execAddAcc m d s
  | .sub m src d => Sys2Proof.Machine.execSub m src d s
  | .subAcc m d => Sys2Proof.Machine.execSubAcc m d s
  | .cmp m src d => Sys2Proof.Machine.execCmp m src d s
  | .cmpAcc m d => Sys2Proof.Machine.execCmpAcc m d s
  | .and m src d => Sys2Proof.Machine.execAnd m src d s
  | .tfrData m src d => Sys2Proof.Machine.execTfrData m src d s
  | .or m src d => Sys2Proof.Machine.execOr m src d s
  | .tfrAddr m rn d => Sys2Proof.Machine.execTfrAddr m rn d s
  | .eor m src d => Sys2Proof.Machine.execEor m src d s
  | .mpy m k q d => Sys2Proof.Machine.execMpy m k q d s
  | .mpyr m k q d => Sys2Proof.Machine.execMpyr m k q d s
  | .mac m k q d => Sys2Proof.Machine.execMac m k q d s
  | .macr m k q d => Sys2Proof.Machine.execMacr m k q d s
  | .dualread base mode1 dst1 mode2 dst2 k q d => Sys2Proof.Machine.execDualread base mode1 dst1 mode2 dst2 k q d s
  | .dualreg src1 dst1 src2 dst2 k q d => Sys2Proof.Machine.execDualreg src1 dst1 src2 dst2 k q d s
  | .mpyrD m k q d => Sys2Proof.Machine.execMpyrD m k q d s
  | .macD m k q d => Sys2Proof.Machine.execMacD m k q d s
  | .macrD m k q d => Sys2Proof.Machine.execMacrD m k q d s
  | .nop => Sys2Proof.Machine.execNop s
  | .enddo => Sys2Proof.Machine.execEnddo s
  | .next => Sys2Proof.Machine.execNext s
  | .moveReg src dst => Sys2Proof.Machine.execMoveReg src dst s
  | .moveLoad dst mode rn => Sys2Proof.Machine.execMoveLoad dst mode rn s
  | .moveLoadDisp dst rn disp => Sys2Proof.Machine.execMoveLoadDisp dst rn disp s
  | .moveLoadAbs dst addr => Sys2Proof.Machine.execMoveLoadAbs dst addr s
  | .moveImm dst imm => Sys2Proof.Machine.execMoveImm dst imm s
  | .moveStore src mode rn => Sys2Proof.Machine.execMoveStore src mode rn s
  | .moveStoreDisp src rn disp => Sys2Proof.Machine.execMoveStoreDisp src rn disp s
  | .moveStoreAbs src addr => Sys2Proof.Machine.execMoveStoreAbs src addr s
  | .addi imm d => Sys2Proof.Machine.execAddi imm d s
  | .subi imm d => Sys2Proof.Machine.execSubi imm d s
  | .cmpi imm d => Sys2Proof.Machine.execCmpi imm d s
  | .andi imm d => Sys2Proof.Machine.execAndi imm d s
  | .ori imm d => Sys2Proof.Machine.execOri imm d s
  | .eori imm d => Sys2Proof.Machine.execEori imm d s
  | .andc imm => Sys2Proof.Machine.execAndc imm s
  | .orc imm => Sys2Proof.Machine.execOrc imm s
  | .bccShort cond disp => Sys2Proof.Machine.execBccShort cond disp s
  | .bccLong cond disp => Sys2Proof.Machine.execBccLong cond disp s
  | .jccAbs cond target => Sys2Proof.Machine.execJccAbs cond target s
  | .jccReg cond rn => Sys2Proof.Machine.execJccReg cond rn s
  | .doImm count => Sys2Proof.Machine.execDoImm count s
  | .doReg src => Sys2Proof.Machine.execDoReg src s
  | .btstReg bit r => Sys2Proof.Machine.execBtstReg bit r s
  | .btstMem bit rn => Sys2Proof.Machine.execBtstMem bit rn s
  | .bsetReg bit r => Sys2Proof.Machine.execBsetReg bit r s
  | .bsetMem bit rn => Sys2Proof.Machine.execBsetMem bit rn s
  | .bclrReg bit r => Sys2Proof.Machine.execBclrReg bit r s
  | .bclrMem bit rn => Sys2Proof.Machine.execBclrMem bit rn s
  | .bchgReg bit r => Sys2Proof.Machine.execBchgReg bit r s
  | .bchgMem bit rn => Sys2Proof.Machine.execBchgMem bit rn s

end Sys2Proof.Machine
end

