-- ==== Sys2Proof/Machine/Step.lean ====
section
/-! DEFINITION. The reference step (rule R268). -/

namespace Sys2Proof.Machine

/-- R268: fetch at `pc`, decode, fetch the second word where the first needs it, evaluate; a word that
decodes to no opcode stops the run with the state unchanged. -/
def step (s : State) : Host.Outcome State Fault Refusal :=
  match s.decodeAtPc with
  | .ok i => exec i s
  | .error e => .fault (.stopped e s.pc (s.fetch s.pc))

/-- `s` with an opcode's words stored at `pc` in P space, where the next `step` fetches (log 10):
`word0` is bits 15..0 and `word1` bits 31..16 of `w`, the bits from `nbits` on zero. -/
def State.withFetchWord (s : State) (nbits w : Nat) : State :=
  let bits := w % 2 ^ nbits
  s.loadAtPc (BitVec.ofNat 16 bits) (BitVec.ofNat 16 (bits / 65536))

end Sys2Proof.Machine
end

