-- ==== Sys2Proof/Machine/Bus.lean ====
section
/-! DEFINITION. The two halves of every opcode as data, and the accesses the core makes through the host's
capability (rules R60, R66, R67): their count and order are normative. -/

namespace Sys2Proof.Machine

/-- One call of the memory-access capability (rule R60). -/
inductive BusCall where
  | memRead (addr : Word)
  | memWrite (addr v : Word)
deriving DecidableEq, Repr

/-- The move half of an opcode after resolution (rule R264, step 1). -/
def moveHalfOf (i : Instr) (s : State) : Half :=
  match i with
  | .empty => moveHalf .empty s
  | .regmove src dst => moveHalf (.regmove src dst) s
  | .immload imm dst => moveHalf (.immload imm dst) s
  | .absread addr dst => moveHalf (.absread addr dst) s
  | .abswrite src addr => moveHalf (.abswrite src addr) s
  | .memread rn dst => moveHalf (.memread rn dst) s
  | .memwrite src rn => moveHalf (.memwrite src rn) s
  | .clr m _ => moveHalf m s
  | .tst m _ => moveHalf m s
  | .abs m _ => moveHalf m s
  | .neg m _ => moveHalf m s
  | .not m _ => moveHalf m s
  | .rnd m _ => moveHalf m s
  | .tfrAcc m _ => moveHalf m s
  | .asl m _ => moveHalf m s
  | .asr m _ => moveHalf m s
  | .lsl m _ => moveHalf m s
  | .lsr m _ => moveHalf m s
  | .rol m _ => moveHalf m s
  | .ror m _ => moveHalf m s
  | .inc m _ => moveHalf m s
  | .dec m _ => moveHalf m s
  | .add m _ _ => moveHalf m s
  | .addAcc m _ => moveHalf m s
  | .sub m _ _ => moveHalf m s
  | .subAcc m _ => moveHalf m s
  | .cmp m _ _ => moveHalf m s
  | .cmpAcc m _ => moveHalf m s
  | .and m _ _ => moveHalf m s
  | .tfrData m _ _ => moveHalf m s
  | .or m _ _ => moveHalf m s
  | .tfrAddr m _ _ => moveHalf m s
  | .eor m _ _ => moveHalf m s
  | .mpy m _ _ _ => moveHalf m s
  | .mpyr m _ _ _ => moveHalf m s
  | .mac m _ _ _ => moveHalf m s
  | .macr m _ _ _ => moveHalf m s
  | .dualread base mode1 dst1 mode2 dst2 _ _ _ => dualHalf (.dualread base mode1 dst1 mode2 dst2) s
  | .dualreg src1 dst1 src2 dst2 _ _ _ => dualHalf (.dualreg src1 dst1 src2 dst2) s
  | .mpyrD m _ _ _ => dualHalf m s
  | .macD m _ _ _ => dualHalf m s
  | .macrD m _ _ _ => dualHalf m s
  | .nop => emptyHalf
  | .enddo => emptyHalf
  | .next => emptyHalf
  | .moveReg _ _ => emptyHalf
  | .moveLoad _ _ _ => emptyHalf
  | .moveLoadDisp _ _ _ => emptyHalf
  | .moveLoadAbs _ _ => emptyHalf
  | .moveImm _ _ => emptyHalf
  | .moveStore _ _ _ => emptyHalf
  | .moveStoreDisp _ _ _ => emptyHalf
  | .moveStoreAbs _ _ => emptyHalf
  | .addi _ _ => emptyHalf
  | .subi _ _ => emptyHalf
  | .cmpi _ _ => emptyHalf
  | .andi _ _ => emptyHalf
  | .ori _ _ => emptyHalf
  | .eori _ _ => emptyHalf
  | .andc _ => emptyHalf
  | .orc _ => emptyHalf
  | .bccShort _ _ => emptyHalf
  | .bccLong _ _ => emptyHalf
  | .jccAbs _ _ => emptyHalf
  | .jccReg _ _ => emptyHalf
  | .doImm _ => emptyHalf
  | .doReg _ => emptyHalf
  | .btstReg _ _ => emptyHalf
  | .btstMem _ _ => emptyHalf
  | .bsetReg _ _ => emptyHalf
  | .bsetMem _ _ => emptyHalf
  | .bclrReg _ _ => emptyHalf
  | .bclrMem _ _ => emptyHalf
  | .bchgReg _ _ => emptyHalf
  | .bchgMem _ _ => emptyHalf

/-- The instruction half of an opcode after resolution (rule R264, step 2). -/
def instrHalfOf (i : Instr) (s : State) : Half :=
  match i with
  | .empty => nopHalf
  | .regmove _ _ => nopHalf
  | .immload _ _ => nopHalf
  | .absread _ _ => nopHalf
  | .abswrite _ _ => nopHalf
  | .memread _ _ => nopHalf
  | .memwrite _ _ => nopHalf
  | .clr _ d => clrHalf d
  | .tst _ d => tstHalf d s
  | .abs _ d => absHalf d s
  | .neg _ d => negHalf d s
  | .not _ d => notHalf d s
  | .rnd _ d => rndHalf d s
  | .tfrAcc _ d => tfrAccHalf d s
  | .asl _ d => aslHalf d s
  | .asr _ d => asrHalf d s
  | .lsl _ d => lslHalf d s
  | .lsr _ d => lsrHalf d s
  | .rol _ d => rolHalf d s
  | .ror _ d => rorHalf d s
  | .inc _ d => incHalf d s
  | .dec _ d => decHalf d s
  | .add _ src d => addHalf d (ext40 (s.data src)) s
  | .addAcc _ d => addHalf d (s.acc (otherAcc d)) s
  | .sub _ src d => subHalf d (ext40 (s.data src)) s
  | .subAcc _ d => subHalf d (s.acc (otherAcc d)) s
  | .cmp _ src d => cmpHalf d (ext40 (s.data src)) s
  | .cmpAcc _ d => cmpHalf d (s.acc (otherAcc d)) s
  | .and _ src d => andHalf d (s.data src) s
  | .tfrData _ src d => tfrDataHalf src d s
  | .or _ src d => orHalf d (s.data src) s
  | .tfrAddr _ rn d => tfrAddrHalf rn d s
  | .eor _ src d => eorHalf d (s.data src) s
  | .mpy _ k q d => mpyHalf k q d s
  | .mpyr _ k q d => mpyrHalf k q d s
  | .mac _ k q d => macHalf k q d s
  | .macr _ k q d => macrHalf k q d s
  | .dualread _ _ _ _ _ k q d => mpyHalf k (dualPairOfPair q) d s
  | .dualreg _ _ _ _ k q d => mpyHalf k (dualPairOfPair q) d s
  | .mpyrD _ k q d => mpyrHalf k (dualPairOfPair q) d s
  | .macD _ k q d => macHalf k (dualPairOfPair q) d s
  | .macrD _ k q d => macrHalf k (dualPairOfPair q) d s
  | .nop => nopHalf
  | .enddo => enddoHalf
  | .next => nextHalf s
  | .moveReg src dst => moveRegHalf src dst s
  | .moveLoad dst mode rn => loadHalf dst (addrModeOf mode rn) s
  | .moveLoadDisp dst rn disp => loadHalf dst (.displaced rn disp) s
  | .moveLoadAbs dst addr => loadHalf dst (.absolute addr) s
  | .moveImm dst imm => loadHalf dst (.immediate imm) s
  | .moveStore src mode rn => storeHalf src (addrModeOf mode rn) s
  | .moveStoreDisp src rn disp => storeHalf src (.displaced rn disp) s
  | .moveStoreAbs src addr => storeHalf src (.absolute addr) s
  | .addi imm d => addHalf d (ext40 imm) s
  | .subi imm d => subHalf d (ext40 imm) s
  | .cmpi imm d => cmpHalf d (ext40 imm) s
  | .andi imm d => andHalf d imm s
  | .ori imm d => orHalf d imm s
  | .eori imm d => eorHalf d imm s
  | .andc imm => andcHalf imm s
  | .orc imm => orcHalf imm s
  | .bccShort cond disp => transferHalf (holds cond s.sr) (s.pc + 1 + disp.signExtend 16)
  | .bccLong cond disp => transferHalf (holds cond s.sr) (s.pc + 2 + disp)
  | .jccAbs cond target => transferHalf (holds cond s.sr) target
  | .jccReg cond rn => transferHalf (holds cond s.sr) (s.addr rn)
  | .doImm count => doHalf (count.setWidth 16) s
  | .doReg src => doHalf (s.reg16 src) s
  | .btstReg bit r => btstRegHalf bit r s
  | .btstMem bit rn => btstMemHalf bit rn s
  | .bsetReg bit r => bitRegHalf (setBit bit) bit r s
  | .bsetMem bit rn => bitMemHalf (setBit bit) bit rn s
  | .bclrReg bit r => bitRegHalf (clearBit bit) bit r s
  | .bclrMem bit rn => bitMemHalf (clearBit bit) bit rn s
  | .bchgReg bit r => bitRegHalf (changeBit bit) bit r s
  | .bchgMem bit rn => bitMemHalf (changeBit bit) bit rn s

/-- The memory writes among the writes of a half, in order. -/
def busWrites (ws : List Write) : List BusCall :=
  ws.filterMap fun w =>
    match w with
    | .mem addr v => some (.memWrite addr v)
    | _ => none

/-- R66: the calls one `evaluate` makes, in order, when the host answers the move's reads with `ma` and
the instruction's with `ia`: all reads first, the move's before the instruction's; then the
instruction's write and the move's. -/
def busCallsWith (i : Instr) (s : State) (ma ia : List Word) : List BusCall :=
  (moveHalfOf i s).reads.map .memRead ++ (instrHalfOf i s).reads.map .memRead
    ++ busWrites ((instrHalfOf i s).writes ia) ++ busWrites ((moveHalfOf i s).writes ma)

/-- R66 with the answers of plain memory (log 1). -/
def busCalls (i : Instr) (s : State) : List BusCall :=
  busCallsWith i s ((moveHalfOf i s).reads.map s.memRead) ((instrHalfOf i s).reads.map s.memRead)

/-- The evaluation of an opcode for any answers of the host (rule R265, item (b)). -/
def evaluateOpcode (i : Instr) (ma ia : List Word) (s : State) : State :=
  evaluateWith i.size (moveHalfOf i s) (instrHalfOf i s) ma ia s

end Sys2Proof.Machine
end

