-- ==== Sys2Proof/Machine/Disasm.lean ====
section
/-! DEFINITION. The disassembler (rules R280 to R287): the exact text of every opcode, a function of the
decoded fields alone. -/

namespace Sys2Proof.Machine

/-! ## Names and numbers (rule R282) -/

/-- One upper-case hexadecimal digit. -/
def hexDigit (d : BitVec 4) : String :=
  match d.toNat with
  | 0 => "0"
  | 1 => "1"
  | 2 => "2"
  | 3 => "3"
  | 4 => "4"
  | 5 => "5"
  | 6 => "6"
  | 7 => "7"
  | 8 => "8"
  | 9 => "9"
  | 10 => "A"
  | 11 => "B"
  | 12 => "C"
  | 13 => "D"
  | 14 => "E"
  | _ => "F"

/-- An 8-bit value: `$` and two digits. -/
def hex8 (v : BitVec 8) : String :=
  "$" ++ hexDigit (v.extractLsb' 4 4) ++ hexDigit (v.extractLsb' 0 4)

/-- A 16-bit value: `$` and four digits. -/
def hex16 (v : Word) : String :=
  "$" ++ hexDigit (v.extractLsb' 12 4) ++ hexDigit (v.extractLsb' 8 4) ++ hexDigit (v.extractLsb' 4 4)
    ++ hexDigit (v.extractLsb' 0 4)

/-- A bit number: decimal, 0 to 15, without leading zero. -/
def bitText (b : BitVec 4) : String :=
  match b.toNat with
  | 0 => "0"
  | 1 => "1"
  | 2 => "2"
  | 3 => "3"
  | 4 => "4"
  | 5 => "5"
  | 6 => "6"
  | 7 => "7"
  | 8 => "8"
  | 9 => "9"
  | 10 => "10"
  | 11 => "11"
  | 12 => "12"
  | 13 => "13"
  | 14 => "14"
  | _ => "15"

/-- A branch displacement: the sign, then the four-digit magnitude. -/
def dispText (v : Word) : String := if v.msb then "-" ++ hex16 (-v) else "+" ++ hex16 v

/-- A register name (rule R36). -/
def regText : Reg → String
  | .x0 => "X0"
  | .x1 => "X1"
  | .y0 => "Y0"
  | .y1 => "Y1"
  | .a => "A"
  | .b => "B"
  | .a0 => "A0"
  | .b0 => "B0"
  | .a1 => "A1"
  | .b1 => "B1"
  | .a2 => "A2"
  | .b2 => "B2"
  | .r0 => "R0"
  | .r1 => "R1"
  | .r2 => "R2"
  | .r3 => "R3"
  | .n0 => "N0"
  | .n1 => "N1"
  | .n2 => "N2"
  | .n3 => "N3"
  | .sr => "SR"
  | .lc => "LC"
  | .la => "LA"

/-- An accumulator's name. -/
def accText (d : Acc) : String := regText (accName d)

/-- A data register's name. -/
def dataText (r : DataReg) : String := regText (dataName r)

/-- An address register's name. -/
def addrText (r : AddrReg) : String := regText (addrName r)

/-- An offset register's name. -/
def offsetText (r : AddrReg) : String := regText (offsetName r)

/-- A condition's name (rule R241), but for `AL`, which has no spelling of its own. -/
def condText : Cond → String
  | .cc => "CC"
  | .cs => "CS"
  | .ne => "NE"
  | .eq => "EQ"
  | .pl => "PL"
  | .mi => "MI"
  | .vc => "VC"
  | .vs => "VS"
  | .ge => "GE"
  | .lt => "LT"
  | .gt => "GT"
  | .le => "LE"
  | .hi => "HI"
  | .ls => "LS"
  | .al => ""

/-- `B` and the condition's name; `BRA` for `AL` (rule R285). -/
def branchText (c : Cond) : String := if c = .al then "BRA" else "B" ++ condText c

/-- `J` and the condition's name; `JMP` for `AL` (rule R285). -/
def jumpText (c : Cond) : String := if c = .al then "JMP" else "J" ++ condText c

/-- R283: the text of an effective address. -/
def eaText : AddrMode → String
  | .indirect n => "X:(" ++ addrText n ++ ")"
  | .postInc n => "X:(" ++ addrText n ++ ")+"
  | .postDec n => "X:(" ++ addrText n ++ ")-"
  | .postAdd n => "X:(" ++ addrText n ++ ")+" ++ offsetText n
  | .preDec n => "X:-(" ++ addrText n ++ ")"
  | .indexed n => "X:(" ++ addrText n ++ "+" ++ offsetText n ++ ")"
  | .displaced n disp => "X:(" ++ addrText n ++ "+" ++ hex16 disp ++ ")"
  | .absolute addr => "X:" ++ hex16 addr
  | .immediate imm => "#" ++ hex16 imm

/-! ## Move texts (rule R284) -/

/-- The text of a format P move; the empty move renders nothing. -/
def moveText : PMove → String
  | .empty => ""
  | .regmove src dst => "MOVE " ++ regText (moveName src) ++ "," ++ regText (moveName dst)
  | .immload imm dst => "MOVE " ++ eaText (.immediate imm) ++ "," ++ regText (moveName dst)
  | .absread addr dst => "MOVE " ++ eaText (.absolute addr) ++ "," ++ regText (moveName dst)
  | .abswrite src addr => "MOVE " ++ regText (moveName src) ++ "," ++ eaText (.absolute addr)
  | .memread rn dst => "MOVE " ++ eaText (.postInc rn) ++ "," ++ regText (moveName dst)
  | .memwrite src rn => "MOVE " ++ regText (moveName src) ++ "," ++ eaText (.postInc rn)

/-- The text of a format D move; the word `MOVE` appears once. -/
def dualText : DMove → String
  | .dualread base mode1 dst1 mode2 dst2 =>
    "MOVE " ++ eaText (addrModeOf (dualModeOfMode mode1) (slot1Addr base)) ++ "," ++ regText (xName dst1)
      ++ " " ++ eaText (addrModeOf (dualModeOfMode mode2) .r3) ++ "," ++ regText (yName dst2)
  | .dualreg src1 dst1 src2 dst2 =>
    "MOVE " ++ dataText src1 ++ "," ++ dataText dst1 ++ " " ++ accText src2 ++ "," ++ dataText dst2

/-- The text of an opcode's move. -/
def moveTextOf : Instr → String
  | .empty => moveText .empty
  | .regmove src dst => moveText (.regmove src dst)
  | .immload imm dst => moveText (.immload imm dst)
  | .absread addr dst => moveText (.absread addr dst)
  | .abswrite src addr => moveText (.abswrite src addr)
  | .memread rn dst => moveText (.memread rn dst)
  | .memwrite src rn => moveText (.memwrite src rn)
  | .clr m _ => moveText m
  | .tst m _ => moveText m
  | .abs m _ => moveText m
  | .neg m _ => moveText m
  | .not m _ => moveText m
  | .rnd m _ => moveText m
  | .tfrAcc m _ => moveText m
  | .asl m _ => moveText m
  | .asr m _ => moveText m
  | .lsl m _ => moveText m
  | .lsr m _ => moveText m
  | .rol m _ => moveText m
  | .ror m _ => moveText m
  | .inc m _ => moveText m
  | .dec m _ => moveText m
  | .add m _ _ => moveText m
  | .addAcc m _ => moveText m
  | .sub m _ _ => moveText m
  | .subAcc m _ => moveText m
  | .cmp m _ _ => moveText m
  | .cmpAcc m _ => moveText m
  | .and m _ _ => moveText m
  | .tfrData m _ _ => moveText m
  | .or m _ _ => moveText m
  | .tfrAddr m _ _ => moveText m
  | .eor m _ _ => moveText m
  | .mpy m _ _ _ => moveText m
  | .mpyr m _ _ _ => moveText m
  | .mac m _ _ _ => moveText m
  | .macr m _ _ _ => moveText m
  | .dualread base mode1 dst1 mode2 dst2 _ _ _ => dualText (.dualread base mode1 dst1 mode2 dst2)
  | .dualreg src1 dst1 src2 dst2 _ _ _ => dualText (.dualreg src1 dst1 src2 dst2)
  | .mpyrD m _ _ _ => dualText m
  | .macD m _ _ _ => dualText m
  | .macrD m _ _ _ => dualText m
  | .nop => ""
  | .enddo => ""
  | .next => ""
  | .moveReg _ _ => ""
  | .moveLoad _ _ _ => ""
  | .moveLoadDisp _ _ _ => ""
  | .moveLoadAbs _ _ => ""
  | .moveImm _ _ => ""
  | .moveStore _ _ _ => ""
  | .moveStoreDisp _ _ _ => ""
  | .moveStoreAbs _ _ => ""
  | .addi _ _ => ""
  | .subi _ _ => ""
  | .cmpi _ _ => ""
  | .andi _ _ => ""
  | .ori _ _ => ""
  | .eori _ _ => ""
  | .andc _ => ""
  | .orc _ => ""
  | .bccShort _ _ => ""
  | .bccLong _ _ => ""
  | .jccAbs _ _ => ""
  | .jccReg _ _ => ""
  | .doImm _ => ""
  | .doReg _ => ""
  | .btstReg _ _ => ""
  | .btstMem _ _ => ""
  | .bsetReg _ _ => ""
  | .bsetMem _ _ => ""
  | .bclrReg _ _ => ""
  | .bclrMem _ _ => ""
  | .bchgReg _ _ => ""
  | .bchgMem _ _ => ""

/-! ## Instruction texts (rule R285) -/

/-- `MNE S1,S2,D` or `MNE -S1,S2,D`. -/
def mulText (mnemonic : String) (k : Sign) (q : Pair) (d : Acc) : String :=
  mnemonic ++ (if k = .minus then "-" else "") ++ dataText (pairFst q) ++ "," ++ dataText (pairSnd q)
    ++ "," ++ accText d

/-- The text of an opcode's instruction; `NOP` is always printed. -/
def instrTextOf : Instr → String
  | .empty => "NOP"
  | .regmove _ _ => "NOP"
  | .immload _ _ => "NOP"
  | .absread _ _ => "NOP"
  | .abswrite _ _ => "NOP"
  | .memread _ _ => "NOP"
  | .memwrite _ _ => "NOP"
  | .clr _ d => "CLR " ++ accText d
  | .tst _ d => "TST " ++ accText d
  | .abs _ d => "ABS " ++ accText d
  | .neg _ d => "NEG " ++ accText d
  | .not _ d => "NOT " ++ accText d
  | .rnd _ d => "RND " ++ accText d
  | .tfrAcc _ d => "TFR " ++ accText (otherAcc d) ++ "," ++ accText d
  | .asl _ d => "ASL " ++ accText d
  | .asr _ d => "ASR " ++ accText d
  | .lsl _ d => "LSL " ++ accText d
  | .lsr _ d => "LSR " ++ accText d
  | .rol _ d => "ROL " ++ accText d
  | .ror _ d => "ROR " ++ accText d
  | .inc _ d => "INC " ++ accText d
  | .dec _ d => "DEC " ++ accText d
  | .add _ src d => "ADD " ++ dataText src ++ "," ++ accText d
  | .addAcc _ d => "ADD " ++ accText (otherAcc d) ++ "," ++ accText d
  | .sub _ src d => "SUB " ++ dataText src ++ "," ++ accText d
  | .subAcc _ d => "SUB " ++ accText (otherAcc d) ++ "," ++ accText d
  | .cmp _ src d => "CMP " ++ dataText src ++ "," ++ accText d
  | .cmpAcc _ d => "CMP " ++ accText (otherAcc d) ++ "," ++ accText d
  | .and _ src d => "AND " ++ dataText src ++ "," ++ accText d
  | .tfrData _ src d => "TFR " ++ dataText src ++ "," ++ accText d
  | .or _ src d => "OR " ++ dataText src ++ "," ++ accText d
  | .tfrAddr _ rn d => "TFR " ++ addrText rn ++ "," ++ accText d
  | .eor _ src d => "EOR " ++ dataText src ++ "," ++ accText d
  | .mpy _ k q d => mulText "MPY " k q d
  | .mpyr _ k q d => mulText "MPYR " k q d
  | .mac _ k q d => mulText "MAC " k q d
  | .macr _ k q d => mulText "MACR " k q d
  | .dualread _ _ _ _ _ k q d => mulText "MPY " k (dualPairOfPair q) d
  | .dualreg _ _ _ _ k q d => mulText "MPY " k (dualPairOfPair q) d
  | .mpyrD _ k q d => mulText "MPYR " k (dualPairOfPair q) d
  | .macD _ k q d => mulText "MAC " k (dualPairOfPair q) d
  | .macrD _ k q d => mulText "MACR " k (dualPairOfPair q) d
  | .nop => "NOP"
  | .enddo => "ENDDO"
  | .next => "NEXT"
  | .moveReg src dst => "MOVE " ++ regText src ++ "," ++ regText dst
  | .moveLoad dst mode rn => "MOVE " ++ eaText (addrModeOf mode rn) ++ "," ++ regText dst
  | .moveLoadDisp dst rn disp => "MOVE " ++ eaText (.displaced rn disp) ++ "," ++ regText dst
  | .moveLoadAbs dst addr => "MOVE " ++ eaText (.absolute addr) ++ "," ++ regText dst
  | .moveImm dst imm => "MOVE " ++ eaText (.immediate imm) ++ "," ++ regText dst
  | .moveStore src mode rn => "MOVE " ++ regText src ++ "," ++ eaText (addrModeOf mode rn)
  | .moveStoreDisp src rn disp => "MOVE " ++ regText src ++ "," ++ eaText (.displaced rn disp)
  | .moveStoreAbs src addr => "MOVE " ++ regText src ++ "," ++ eaText (.absolute addr)
  | .addi imm d => "ADDI #" ++ hex16 imm ++ "," ++ accText d
  | .subi imm d => "SUBI #" ++ hex16 imm ++ "," ++ accText d
  | .cmpi imm d => "CMPI #" ++ hex16 imm ++ "," ++ accText d
  | .andi imm d => "ANDI #" ++ hex16 imm ++ "," ++ accText d
  | .ori imm d => "ORI #" ++ hex16 imm ++ "," ++ accText d
  | .eori imm d => "EORI #" ++ hex16 imm ++ "," ++ accText d
  | .andc imm => "ANDC #" ++ hex8 imm ++ ",SR"
  | .orc imm => "ORC #" ++ hex8 imm ++ ",SR"
  | .bccShort cond disp => branchText cond ++ " " ++ dispText (disp.signExtend 16)
  | .bccLong cond disp => branchText cond ++ " " ++ dispText disp
  | .jccAbs cond target => jumpText cond ++ " " ++ hex16 target
  | .jccReg cond rn => jumpText cond ++ " (" ++ addrText rn ++ ")"
  | .doImm count => "DO #" ++ hex8 count
  | .doReg src => "DO " ++ regText src
  | .btstReg bit r => "BTST #" ++ bitText bit ++ "," ++ regText r
  | .btstMem bit rn => "BTST #" ++ bitText bit ++ ",X:(" ++ addrText rn ++ ")"
  | .bsetReg bit r => "BSET #" ++ bitText bit ++ "," ++ regText r
  | .bsetMem bit rn => "BSET #" ++ bitText bit ++ ",X:(" ++ addrText rn ++ ")"
  | .bclrReg bit r => "BCLR #" ++ bitText bit ++ "," ++ regText r
  | .bclrMem bit rn => "BCLR #" ++ bitText bit ++ ",X:(" ++ addrText rn ++ ")"
  | .bchgReg bit r => "BCHG #" ++ bitText bit ++ "," ++ regText r
  | .bchgMem bit rn => "BCHG #" ++ bitText bit ++ ",X:(" ++ addrText rn ++ ")"

/-- R281: the move text, the separator and the instruction text; no separator after the empty move. -/
def disassemble (i : Instr) : String :=
  if moveTextOf i = "" then instrTextOf i else moveTextOf i ++ " || " ++ instrTextOf i

end Sys2Proof.Machine
end

