-- ==== Sys2Proof/Machine/Peek.lean ====
section
/-! DEFINITION. The read-only accessors of a decoded opcode (rules R11, R263, R266): `evalSize`, and the
peek accessors of the decoded instruction (not of the move). -/

namespace Sys2Proof.Machine

/-- R263: `evalSize()`, the open cost of the opcode's words (log 6). -/
def evalSize (i : Instr) : Nat := Config.evalCost (encode i).1 (encode i).2

/-- The 23 registers in the order of their codes (rule R36). -/
def allRegs : List Reg :=
  [.x0, .x1, .y0, .y1, .a, .b, .a0, .b0, .a1, .b1, .a2, .b2, .r0, .r1, .r2, .r3, .n0, .n1, .n2, .n3,
    .sr, .lc, .la]

/-- A set of registers in its one form: in the order of the codes, each once (log 13). -/
def regSet (l : List Reg) : List Reg := allRegs.filter fun r => l.contains r

/-- R221 and R222: the registers a mode reads. -/
def modeSources (mode : Mode) (rn : AddrReg) : List Reg :=
  match mode with
  | .indirect => [addrName rn]
  | .postInc => [addrName rn]
  | .postDec => [addrName rn]
  | .postAdd => [addrName rn, offsetName rn]
  | .preDec => [addrName rn]
  | .indexed => [addrName rn, offsetName rn]

/-- R221 and R222: the register a mode updates. -/
def modeUpdates (mode : Mode) (rn : AddrReg) : List Reg :=
  match mode with
  | .indirect => []
  | .postInc => [addrName rn]
  | .postDec => [addrName rn]
  | .postAdd => [addrName rn]
  | .preDec => [addrName rn]
  | .indexed => []

/-- R242: a condition reads `SR`, but for `AL` (the register-indirect jump lists `SR` always, rule R245: log 11). -/
def condSources (cond : Cond) : List Reg := if cond = .al then [] else [.sr]

/-- The registers each rule lists as sources, in the order it lists them. -/
def sourceList : Instr → List Reg
  | .empty => []
  | .regmove _ _ => []
  | .immload _ _ => []
  | .absread _ _ => []
  | .abswrite _ _ => []
  | .memread _ _ => []
  | .memwrite _ _ => []
  | .clr _ _ => []
  | .tst _ d => [accName d]
  | .abs _ d => [accName d]
  | .neg _ d => [accName d]
  | .not _ d => [accName d]
  | .rnd _ d => [accName d]
  | .tfrAcc _ d => [accName (otherAcc d)]
  | .asl _ d => [accName d]
  | .asr _ d => [accName d]
  | .lsl _ d => [accName d]
  | .lsr _ d => [accName d]
  | .rol _ d => [accName d, .sr]
  | .ror _ d => [accName d, .sr]
  | .inc _ d => [accName d]
  | .dec _ d => [accName d]
  | .add _ src d => [dataName src, accName d]
  | .addAcc _ d => [accName (otherAcc d), accName d]
  | .sub _ src d => [dataName src, accName d]
  | .subAcc _ d => [accName (otherAcc d), accName d]
  | .cmp _ src d => [dataName src, accName d]
  | .cmpAcc _ d => [accName (otherAcc d), accName d]
  | .and _ src d => [dataName src, accName d]
  | .tfrData _ src _ => [dataName src]
  | .or _ src d => [dataName src, accName d]
  | .tfrAddr _ rn _ => [addrName rn]
  | .eor _ src d => [dataName src, accName d]
  | .mpy _ _ q _ => [dataName (pairFst q), dataName (pairSnd q)]
  | .mpyr _ _ q _ => [dataName (pairFst q), dataName (pairSnd q)]
  | .mac _ _ q d => [dataName (pairFst q), dataName (pairSnd q), accName d]
  | .macr _ _ q d => [dataName (pairFst q), dataName (pairSnd q), accName d]
  | .dualread _ _ _ _ _ _ q _ => [dataName (pairFst (dualPairOfPair q)), dataName (pairSnd (dualPairOfPair q))]
  | .dualreg _ _ _ _ _ q _ => [dataName (pairFst (dualPairOfPair q)), dataName (pairSnd (dualPairOfPair q))]
  | .mpyrD _ _ q _ => [dataName (pairFst (dualPairOfPair q)), dataName (pairSnd (dualPairOfPair q))]
  | .macD _ _ q d => [dataName (pairFst (dualPairOfPair q)), dataName (pairSnd (dualPairOfPair q)), accName d]
  | .macrD _ _ q d => [dataName (pairFst (dualPairOfPair q)), dataName (pairSnd (dualPairOfPair q)), accName d]
  | .nop => []
  | .enddo => []
  | .next => [.lc, .la]
  | .moveReg src _ => [src]
  | .moveLoad _ mode rn => modeSources mode rn
  | .moveLoadDisp _ rn _ => [addrName rn]
  | .moveLoadAbs _ _ => []
  | .moveImm _ _ => []
  | .moveStore src mode rn => src :: modeSources mode rn
  | .moveStoreDisp src rn _ => [src, addrName rn]
  | .moveStoreAbs src _ => [src]
  | .addi _ d => [accName d]
  | .subi _ d => [accName d]
  | .cmpi _ d => [accName d]
  | .andi _ d => [accName d]
  | .ori _ d => [accName d]
  | .eori _ d => [accName d]
  | .andc _ => [.sr]
  | .orc _ => [.sr]
  | .bccShort cond _ => condSources cond
  | .bccLong cond _ => condSources cond
  | .jccAbs cond _ => condSources cond
  | .jccReg _ rn => [addrName rn, .sr]
  | .doImm _ => [.lc, .la]
  | .doReg src => [.lc, .la, src]
  | .btstReg _ r => [r]
  | .btstMem _ rn => [addrName rn]
  | .bsetReg _ r => [r]
  | .bsetMem _ rn => [addrName rn]
  | .bclrReg _ r => [r]
  | .bclrMem _ rn => [addrName rn]
  | .bchgReg _ r => [r]
  | .bchgMem _ rn => [addrName rn]

/-- The registers each rule lists as destinations, in the order it lists them. -/
def destinationList : Instr → List Reg
  | .empty => []
  | .regmove _ _ => []
  | .immload _ _ => []
  | .absread _ _ => []
  | .abswrite _ _ => []
  | .memread _ _ => []
  | .memwrite _ _ => []
  | .clr _ d => [accName d]
  | .tst _ _ => []
  | .abs _ d => [accName d]
  | .neg _ d => [accName d]
  | .not _ d => [accName d]
  | .rnd _ d => [accName d]
  | .tfrAcc _ d => [accName d]
  | .asl _ d => [accName d]
  | .asr _ d => [accName d]
  | .lsl _ d => [accName d]
  | .lsr _ d => [accName d]
  | .rol _ d => [accName d]
  | .ror _ d => [accName d]
  | .inc _ d => [accName d]
  | .dec _ d => [accName d]
  | .add _ _ d => [accName d]
  | .addAcc _ d => [accName d]
  | .sub _ _ d => [accName d]
  | .subAcc _ d => [accName d]
  | .cmp _ _ _ => []
  | .cmpAcc _ _ => []
  | .and _ _ d => [accName d]
  | .tfrData _ _ d => [accName d]
  | .or _ _ d => [accName d]
  | .tfrAddr _ _ d => [accName d]
  | .eor _ _ d => [accName d]
  | .mpy _ _ _ d => [accName d]
  | .mpyr _ _ _ d => [accName d]
  | .mac _ _ _ d => [accName d]
  | .macr _ _ _ d => [accName d]
  | .dualread _ _ _ _ _ _ _ d => [accName d]
  | .dualreg _ _ _ _ _ _ d => [accName d]
  | .mpyrD _ _ _ d => [accName d]
  | .macD _ _ _ d => [accName d]
  | .macrD _ _ _ d => [accName d]
  | .nop => []
  | .enddo => [.lc, .la]
  | .next => [.lc, .la]
  | .moveReg _ dst => [dst]
  | .moveLoad dst mode rn => dst :: modeUpdates mode rn
  | .moveLoadDisp dst _ _ => [dst]
  | .moveLoadAbs dst _ => [dst]
  | .moveImm dst _ => [dst]
  | .moveStore _ mode rn => modeUpdates mode rn
  | .moveStoreDisp _ _ _ => []
  | .moveStoreAbs _ _ => []
  | .addi _ d => [accName d]
  | .subi _ d => [accName d]
  | .cmpi _ _ => []
  | .andi _ d => [accName d]
  | .ori _ d => [accName d]
  | .eori _ d => [accName d]
  | .andc _ => [.sr]
  | .orc _ => [.sr]
  | .bccShort _ _ => []
  | .bccLong _ _ => []
  | .jccAbs _ _ => []
  | .jccReg _ _ => []
  | .doImm _ => [.lc, .la]
  | .doReg _ => [.lc, .la]
  | .btstReg _ _ => []
  | .btstMem _ _ => []
  | .bsetReg _ r => [r]
  | .bsetMem _ _ => []
  | .bclrReg _ r => [r]
  | .bclrMem _ _ => []
  | .bchgReg _ r => [r]
  | .bchgMem _ _ => []

/-- R266: `sources(instr)`, the registers the instruction may read. -/
def sources (i : Instr) : List Reg := regSet (sourceList i)

/-- R266: `destinations(instr)`, the registers the instruction may write; `pc`, the loop stack and memory
are not registers. -/
def destinations (i : Instr) : List Reg := regSet (destinationList i)

/-- R161 and R266: `flagsModified(instr)`, the source's `accumulatorBitsModified()`. -/
def flagsModified : Instr → List Flag
  | .empty => []
  | .regmove _ _ => []
  | .immload _ _ => []
  | .absread _ _ => []
  | .abswrite _ _ => []
  | .memread _ _ => []
  | .memwrite _ _ => []
  | .clr _ _ => [.v, .z, .n]
  | .tst _ _ => [.v, .z, .n]
  | .abs _ _ => [.v, .z, .n]
  | .neg _ _ => [.c, .v, .z, .n]
  | .not _ _ => [.v, .z, .n]
  | .rnd _ _ => [.v, .z, .n]
  | .tfrAcc _ _ => []
  | .asl _ _ => [.c, .v, .z, .n]
  | .asr _ _ => [.c, .v, .z, .n]
  | .lsl _ _ => [.c, .v, .z, .n]
  | .lsr _ _ => [.c, .v, .z, .n]
  | .rol _ _ => [.c, .v, .z, .n]
  | .ror _ _ => [.c, .v, .z, .n]
  | .inc _ _ => [.c, .v, .z, .n]
  | .dec _ _ => [.c, .v, .z, .n]
  | .add _ _ _ => [.c, .v, .z, .n]
  | .addAcc _ _ => [.c, .v, .z, .n]
  | .sub _ _ _ => [.c, .v, .z, .n]
  | .subAcc _ _ => [.c, .v, .z, .n]
  | .cmp _ _ _ => [.c, .v, .z, .n]
  | .cmpAcc _ _ => [.c, .v, .z, .n]
  | .and _ _ _ => [.v, .z, .n]
  | .tfrData _ _ _ => []
  | .or _ _ _ => [.v, .z, .n]
  | .tfrAddr _ _ _ => []
  | .eor _ _ _ => [.v, .z, .n]
  | .mpy _ _ _ _ => [.v, .z, .n]
  | .mpyr _ _ _ _ => [.v, .z, .n]
  | .mac _ _ _ _ => [.v, .z, .n]
  | .macr _ _ _ _ => [.v, .z, .n]
  | .dualread _ _ _ _ _ _ _ _ => [.v, .z, .n]
  | .dualreg _ _ _ _ _ _ _ => [.v, .z, .n]
  | .mpyrD _ _ _ _ => [.v, .z, .n]
  | .macD _ _ _ _ => [.v, .z, .n]
  | .macrD _ _ _ _ => [.v, .z, .n]
  | .nop => []
  | .enddo => [.se]
  | .next => [.se]
  | .moveReg _ dst => if dst = .sr then [.c, .v, .z, .n, .se] else []
  | .moveLoad dst _ _ => if dst = .sr then [.c, .v, .z, .n, .se] else []
  | .moveLoadDisp dst _ _ => if dst = .sr then [.c, .v, .z, .n, .se] else []
  | .moveLoadAbs dst _ => if dst = .sr then [.c, .v, .z, .n, .se] else []
  | .moveImm dst _ => if dst = .sr then [.c, .v, .z, .n, .se] else []
  | .moveStore _ _ _ => []
  | .moveStoreDisp _ _ _ => []
  | .moveStoreAbs _ _ => []
  | .addi _ _ => [.c, .v, .z, .n]
  | .subi _ _ => [.c, .v, .z, .n]
  | .cmpi _ _ => [.c, .v, .z, .n]
  | .andi _ _ => [.v, .z, .n]
  | .ori _ _ => [.v, .z, .n]
  | .eori _ _ => [.v, .z, .n]
  | .andc _ => [.c, .v, .z, .n, .se]
  | .orc _ => [.c, .v, .z, .n, .se]
  | .bccShort _ _ => []
  | .bccLong _ _ => []
  | .jccAbs _ _ => []
  | .jccReg _ _ => []
  | .doImm _ => [.se]
  | .doReg _ => [.se]
  | .btstReg _ _ => [.c]
  | .btstMem _ _ => [.c]
  | .bsetReg _ _ => [.c]
  | .bsetMem _ _ => [.c]
  | .bclrReg _ _ => [.c]
  | .bclrMem _ _ => [.c]
  | .bchgReg _ _ => [.c]
  | .bchgMem _ _ => [.c]

end Sys2Proof.Machine
end

