-- ==== Sys2Proof/Safety.lean ====
section
/-! DEFINITION. The terms statements are made in: the invariant of the machine, what an opcode leaves
unchanged, and what a parallel move or a write through the register port has done. -/

namespace Sys2Proof.Machine

/-! ## The invariant -/

/-- What every run keeps: at most eight valid loop-stack entries (rule R34, log 9), and both spaces in
canonical form. -/
def State.Inv (s : State) : Prop :=
  s.lsp ≤ 8 ∧ s.xmem.wf = true ∧ s.pmem.wf = true

/-! ## Frames -/

/-- The whole register a code is a view of (rule R23). -/
def home : Reg → Reg
  | .a0 => .a
  | .a1 => .a
  | .a2 => .a
  | .b0 => .b
  | .b1 => .b
  | .b2 => .b
  | r => r

/-- Every bit of the whole register a code is a view of. -/
def State.full (s : State) (r : Reg) : Wide :=
  match home r with
  | .a => s.a
  | .b => s.b
  | r' => (s.reg16 r').setWidth 40

/-- Every register is unchanged but the listed whole registers; `SR` is one of the registers. -/
def RegsKept (regs : List Reg) (s t : State) : Prop :=
  ∀ r, home r ∉ regs → t.full r = s.full r

/-- Every byte of X space is unchanged but those of the listed words. -/
def MemKept (stored : List Word) (s t : State) : Prop :=
  ∀ k, (∀ w ∈ stored, k ≠ 2 * w.toNat ∧ k ≠ 2 * w.toNat + 1) → t.xmem.read k = s.xmem.read k

/-- Everything but `pc` is unchanged outside the listed registers and words: the registers, the loop
stack, P space and X space. -/
def Frame (regs : List Reg) (stored : List Word) (s t : State) : Prop :=
  RegsKept regs s t ∧ t.ls = s.ls ∧ t.lsp = s.lsp ∧ t.pmem = s.pmem ∧ MemKept stored s t

/-- As `Frame`, and `pc` has advanced by the opcode's size. -/
def FrameNext (size : Nat) (regs : List Reg) (stored : List Word) (s t : State) : Prop :=
  t.pc = s.pc + BitVec.ofNat 16 size ∧ Frame regs stored s t

/-! ## Parallel moves -/

/-- The registers a format P move writes: its destination and the address register it updates. -/
def moveRegs : PMove → List Reg
  | .empty => []
  | .regmove _ dst => [moveName dst]
  | .immload _ dst => [moveName dst]
  | .absread _ dst => [moveName dst]
  | .abswrite _ _ => []
  | .memread rn dst => [moveName dst, addrName rn]
  | .memwrite _ rn => [addrName rn]

/-- The X-space words a format P move stores to, by the resolver on the pre-state. -/
def moveStores (m : PMove) (s : State) : List Word :=
  match m with
  | .abswrite _ addr => (resolve (.absolute addr) s).ea.toList
  | .memwrite _ rn => (resolve (.postInc rn) s).ea.toList
  | _ => []

/-- The registers a format D move writes. -/
def dualRegs : DMove → List Reg
  | .dualread base mode1 dst1 mode2 dst2 =>
    [xName dst1, yName dst2] ++ modeUpdates (dualModeOfMode mode1) (slot1Addr base)
      ++ modeUpdates (dualModeOfMode mode2) .r3
  | .dualreg _ dst1 _ dst2 => [dataName dst1, dataName dst2]

/-- The format P move of an opcode. -/
def pMoveOf : Instr → Option PMove
  | .empty => some .empty
  | .regmove src dst => some (.regmove src dst)
  | .immload imm dst => some (.immload imm dst)
  | .absread addr dst => some (.absread addr dst)
  | .abswrite src addr => some (.abswrite src addr)
  | .memread rn dst => some (.memread rn dst)
  | .memwrite src rn => some (.memwrite src rn)
  | .clr m _ => some m
  | .tst m _ => some m
  | .abs m _ => some m
  | .neg m _ => some m
  | .not m _ => some m
  | .rnd m _ => some m
  | .tfrAcc m _ => some m
  | .asl m _ => some m
  | .asr m _ => some m
  | .lsl m _ => some m
  | .lsr m _ => some m
  | .rol m _ => some m
  | .ror m _ => some m
  | .inc m _ => some m
  | .dec m _ => some m
  | .add m _ _ => some m
  | .addAcc m _ => some m
  | .sub m _ _ => some m
  | .subAcc m _ => some m
  | .cmp m _ _ => some m
  | .cmpAcc m _ => some m
  | .and m _ _ => some m
  | .tfrData m _ _ => some m
  | .or m _ _ => some m
  | .tfrAddr m _ _ => some m
  | .eor m _ _ => some m
  | .mpy m _ _ _ => some m
  | .mpyr m _ _ _ => some m
  | .mac m _ _ _ => some m
  | .macr m _ _ _ => some m
  | _ => none

/-- The format D move of an opcode. -/
def dMoveOf : Instr → Option DMove
  | .dualread base mode1 dst1 mode2 dst2 _ _ _ => some (.dualread base mode1 dst1 mode2 dst2)
  | .dualreg src1 dst1 src2 dst2 _ _ _ => some (.dualreg src1 dst1 src2 dst2)
  | .mpyrD m _ _ _ => some m
  | .macD m _ _ _ => some m
  | .macrD m _ _ _ => some m
  | _ => none

/-- A 16-bit value in the high word of an accumulator, sign-extended above, zero below (rule R25). -/
def aligned (v : Word) : Wide := v.signExtend 24 ++ 0#16

/-- A 16-bit value has been moved into a register of a format P move: a data register holds it, a whole
accumulator holds it aligned (rule R25). -/
def Moved (dst : MoveReg) (v : Word) (t : State) : Prop :=
  match dst with
  | .x0 => t.x0 = v
  | .x1 => t.x1 = v
  | .y0 => t.y0 = v
  | .y1 => t.y1 = v
  | .a => t.a = aligned v
  | .b => t.b = aligned v

/-- What a format P move has done, from the pre-state `s` (rules R141 to R147). -/
def MoveDone (m : PMove) (s t : State) : Prop :=
  match m with
  | .empty => True
  | .regmove src dst => Moved dst (s.reg16 (moveName src)) t
  | .immload imm dst => Moved dst imm t
  | .absread addr dst => Moved dst (s.memRead addr) t
  | .abswrite src addr => t.memRead addr = s.reg16 (moveName src)
  | .memread rn dst => Moved dst (s.memRead (s.addr rn)) t ∧ t.addr rn = s.addr rn + 1
  | .memwrite src rn => t.memRead (s.addr rn) = s.reg16 (moveName src) ∧ t.addr rn = s.addr rn + 1

/-- The value an address register holds after a mode's update (rule R121). -/
def addrAfter (mode : Mode) (rn : AddrReg) (s : State) : Word :=
  match mode with
  | .indirect => s.addr rn
  | .postInc => s.addr rn + 1
  | .postDec => s.addr rn - 1
  | .postAdd => s.addr rn + s.offset rn
  | .preDec => s.addr rn - 1
  | .indexed => s.addr rn

/-- What a format D move has done, from the pre-state `s` (rules R148, R149): the dual reads are at the
two address registers, and slot 2 of a register move is written last. -/
def DualDone (m : DMove) (s t : State) : Prop :=
  match m with
  | .dualread base mode1 dst1 mode2 dst2 =>
    t.reg16 (xName dst1) = s.memRead (s.addr (slot1Addr base))
      ∧ t.reg16 (yName dst2) = s.memRead s.r3
      ∧ t.addr (slot1Addr base) = addrAfter (dualModeOfMode mode1) (slot1Addr base) s
      ∧ t.r3 = addrAfter (dualModeOfMode mode2) .r3 s
  | .dualreg src1 dst1 src2 dst2 =>
    (dst1 ≠ dst2 → t.data dst1 = s.data src1) ∧ t.data dst2 = limit (s.acc src2)

/-! ## The register port -/

/-- What `SetReg16(c, v)` leaves in the register `c` (rule R38), the other bits of a partly written
accumulator as in `s`. -/
def PortHolds (r : Reg) (v : Word) (s t : State) : Prop :=
  match r with
  | .x0 => t.x0 = v
  | .x1 => t.x1 = v
  | .y0 => t.y0 = v
  | .y1 => t.y1 = v
  | .a => t.a = aligned v
  | .b => t.b = aligned v
  | .a0 => t.a = s.a.extractLsb' 16 24 ++ v
  | .b0 => t.b = s.b.extractLsb' 16 24 ++ v
  | .a1 => t.a = s.a.extractLsb' 32 8 ++ v ++ s.a.extractLsb' 0 16
  | .b1 => t.b = s.b.extractLsb' 32 8 ++ v ++ s.b.extractLsb' 0 16
  | .a2 => t.a = v.extractLsb' 0 8 ++ s.a.extractLsb' 0 32
  | .b2 => t.b = v.extractLsb' 0 8 ++ s.b.extractLsb' 0 32
  | .r0 => t.r0 = v
  | .r1 => t.r1 = v
  | .r2 => t.r2 = v
  | .r3 => t.r3 = v
  | .n0 => t.n0 = v
  | .n1 => t.n1 = v
  | .n2 => t.n2 = v
  | .n3 => t.n3 = v
  | .sr => t.sr = ⟨v[0], v[1], v[2], v[3], v[4]⟩
  | .lc => t.lc = v
  | .la => t.la = v

/-! ## Results of the arithmetic instructions -/

/-- The exact signed result does not fit 40 bits (rule R186). -/
def misfits (e : Int) : Bool := decide (e < -(2 ^ 39)) || decide (2 ^ 39 - 1 < e)

/-- The flags of a 40-bit result `r` with the exact signed value `e` and the carry `c`; `SE` is kept
(rule R186). -/
def flags40 (c : Bool) (e : Int) (r : Wide) (f : Status) : Status :=
  ⟨c, misfits e, decide (r = 0), r.msb, f.se⟩

/-- The flags of a 16-bit result `x` with the carry `c`; `V` is cleared and `SE` kept (rule R186). -/
def flags16 (c : Bool) (x : Word) (f : Status) : Status :=
  ⟨c, false, decide (x = 0), x.msb, f.se⟩

/-- The high word of an accumulator replaced, its other bits kept. -/
def replaceHigh (acc : Wide) (x : Word) : Wide := acc.extractLsb' 32 8 ++ x ++ acc.extractLsb' 0 16

/-- `e` is `t` rounded to a multiple of `2^16`: the nearest one, and of two that are equally near the
even one (rule R168). -/
def NearestEven (t e : Int) : Prop :=
  e % 65536 = 0 ∧ 2 * |e - t| ≤ 65536 ∧ (2 * |e - t| = 65536 → e / 65536 % 2 = 0)

/-- The sign of a product (rule R201). -/
def signInt : Sign → Int
  | .plus => 1
  | .minus => -1

/-- The fractional product of a source pair (rules R201, R202). -/
def fracProduct (k : Sign) (q : Pair) (s : State) : Int :=
  signInt k * (2 * (s.data (pairFst q)).toInt * (s.data (pairSnd q)).toInt)

/-- Everything outside the listed registers and what the paired move writes is unchanged, and `pc` has
advanced over a format P opcode. -/
def PFrame (m : PMove) (regs : List Reg) (s t : State) : Prop :=
  FrameNext m.size (regs ++ moveRegs m) (moveStores m s) s t

/-- A format P opcode has written the accumulator `d` with `r`, and no flag, and its paired move is done;
where the move writes `d` too, the move's value remains (rule R151). -/
def PWrote (m : PMove) (d : Acc) (r : Wide) (s t : State) : Prop :=
  (accName d ∉ moveRegs m → t.acc d = r) ∧ MoveDone m s t ∧ PFrame m [accName d] s t

/-- A format P opcode has written the accumulator `d` with `r`, and the flags with `f`, and its paired move
is done; where the move writes `d` too, the move's value remains and the flags are the instruction's (rule
R151). -/
def PDone (m : PMove) (d : Acc) (r : Wide) (f : Status) (s t : State) : Prop :=
  (accName d ∉ moveRegs m → t.acc d = r) ∧ t.sr = f ∧ MoveDone m s t ∧ PFrame m [accName d, .sr] s t

/-- A format P opcode has written the flags with `f`, and no register, and its paired move is done. -/
def PFlags (m : PMove) (f : Status) (s t : State) : Prop :=
  t.sr = f ∧ MoveDone m s t ∧ PFrame m [.sr] s t

/-- A format N opcode of `size` words has written the accumulator `d` with `r` and the flags with `f`. -/
def NDone (size : Nat) (d : Acc) (r : Wide) (f : Status) (s t : State) : Prop :=
  t.acc d = r ∧ t.sr = f ∧ FrameNext size [accName d, .sr] [] s t

/-- A format D opcode has written the accumulator `d` with `r` and the flags with `f`; its dual move
writes data and address registers alone. -/
def DDone (m : DMove) (d : Acc) (r : Wide) (f : Status) (s t : State) : Prop :=
  t.acc d = r ∧ t.sr = f ∧ FrameNext 1 ([accName d, .sr] ++ dualRegs m) [] s t

/-- What the conditions mean after a comparison of `x` with `y` (rules R180, R241). -/
def CompareMeaning (x y : Wide) (f : Status) : Prop :=
  (holds .eq f = true ↔ x = y) ∧ (holds .ne f = true ↔ x ≠ y)
    ∧ (holds .cc f = true ↔ y.toNat ≤ x.toNat) ∧ (holds .cs f = true ↔ x.toNat < y.toNat)
    ∧ (holds .hi f = true ↔ y.toNat < x.toNat) ∧ (holds .ls f = true ↔ x.toNat ≤ y.toNat)
    ∧ (holds .ge f = true ↔ y.toInt ≤ x.toInt) ∧ (holds .lt f = true ↔ x.toInt < y.toInt)
    ∧ (holds .gt f = true ↔ y.toInt < x.toInt) ∧ (holds .le f = true ↔ x.toInt ≤ y.toInt)

/-! ## Flags, registers and accesses an opcode names -/

/-- The value of one flag. -/
def Status.get (f : Status) : Flag → Bool
  | .c => f.c
  | .v => f.v
  | .z => f.z
  | .n => f.n
  | .se => f.se

/-- What a register code reads as, the whole accumulators at all 40 bits. -/
def State.view (s : State) : Reg → Wide
  | .a => s.a
  | .b => s.b
  | r => (s.reg16 r).setWidth 40

/-- The opcodes that can override the program counter: the branches, the jumps and `NEXT` (rule R240). -/
def overridesPc : Instr → Bool
  | .bccShort _ _ => true
  | .bccLong _ _ => true
  | .jccAbs _ _ => true
  | .jccReg _ _ => true
  | .next => true
  | _ => false

/-- The opcodes that read or write the loop stack (rule R34). -/
def usesLoopStack : Instr → Bool
  | .doImm _ => true
  | .doReg _ => true
  | .next => true
  | .enddo => true
  | _ => false

/-- The registers the parallel move of an opcode writes. -/
def moveRegsOf (i : Instr) : List Reg :=
  match pMoveOf i, dMoveOf i with
  | some m, _ => moveRegs m
  | none, some m => dualRegs m
  | none, none => []

/-- The opcodes without a move: those of format N, and those of format P with the empty move. -/
def hasNoMove (i : Instr) : Bool :=
  match pMoveOf i, dMoveOf i with
  | some m, _ => decide (m = .empty)
  | none, some _ => false
  | none, none => true

/-- The accesses of a format P move (rule R66). -/
def moveCalls (m : PMove) (s : State) : List BusCall :=
  match m with
  | .absread addr _ => [.memRead addr]
  | .memread rn _ => [.memRead (s.addr rn)]
  | .abswrite src addr => [.memWrite addr (s.reg16 (moveName src))]
  | .memwrite src rn => [.memWrite (s.addr rn) (s.reg16 (moveName src))]
  | _ => []

/-- The accesses of a format D move (rule R66). -/
def dualCalls (m : DMove) (s : State) : List BusCall :=
  match m with
  | .dualread base _ _ _ _ => [.memRead (s.addr (slot1Addr base)), .memRead s.r3]
  | .dualreg _ _ _ _ => []

/-! ## The loop stack -/

/-- A loop opcode leaves everything unchanged but the loop registers, `SR`, the loop stack and `pc`. -/
def LoopFrame (s t : State) : Prop :=
  RegsKept [.la, .lc, .sr] s t ∧ t.pmem = s.pmem ∧ MemKept [] s t

/-- `push_loop` of (`la`, `lc`) has happened to the stack (rule R34): the new entry is the next free one,
or the last one of a full stack, with `SE` set. -/
def Pushed (la lc : Word) (s t : State) : Prop :=
  (∀ j < 8, t.ls.get j = if j = min s.lsp 7 then ⟨la, lc⟩ else s.ls.get j)
    ∧ (s.lsp < 8 → t.lsp = s.lsp + 1 ∧ t.sr = s.sr)
    ∧ (8 ≤ s.lsp → t.lsp = s.lsp ∧ t.sr = { s.sr with se := true })

/-- `pop_loop` has happened (rule R35): the newest entry is restored, or `SE` is set on an empty stack; no
entry of the stack changes. -/
def Popped (s t : State) : Prop :=
  t.ls = s.ls
    ∧ (0 < s.lsp → t.lsp = s.lsp - 1 ∧ t.la = (s.ls.get (s.lsp - 1)).la
        ∧ t.lc = (s.ls.get (s.lsp - 1)).lc ∧ t.sr = s.sr)
    ∧ (s.lsp = 0 → t.lsp = 0 ∧ t.la = s.la ∧ t.lc = s.lc ∧ t.sr = { s.sr with se := true })

end Sys2Proof.Machine
end

