-- ==== Sys2Proof/Certificates/Slice0/Obligations.lean ====
section
/-! DEFINITION. The statements for the provers, one `def Obligations.<Name> : Prop` each. A docstring names
the rules a statement formalises. In every statement the two spaces are the model's plain memory, made of bytes
(log 1, log 3): the spec leaves the answers of memory to the host. -/

open Sys2Proof Sys2Proof.Machine

/-! ## Encoding and decoding -/

/-- R80 to R104: the decoder gives every well-formed opcode back from its own words. -/
def Obligations.DecodeOfEncode : Prop :=
  ∀ i : Instr, i.wellFormed = true → decode (encode i).1 (encode i).2 = .ok i

/-- R261: an opcode is a function of its words and they are a function of it: `word0` is the word that was
decoded, `word1` is kept exactly where the opcode is two words long. -/
def Obligations.EncodeOfDecode : Prop :=
  ∀ (w0 w1 : Word) (i : Instr), decode w0 (some w1) = .ok i →
    (encode i).1 = w0 ∧ (encode i).2 = if i.size = 2 then some w1 else none

/-- R84, R100: the decoder returns well-formed opcodes only. -/
def Obligations.DecodedOpcodesAreWellFormed : Prop :=
  ∀ (w0 : Word) (w1 : Option Word) (i : Instr), decode w0 w1 = .ok i → i.wellFormed = true

/-- R80, R301, R303, R304: `word0` alone decides, and every error carries it. A word is undecodable, with the
same error whether or not a second word is supplied; or it needs a second word, and every one will do; or it is a one-word opcode, and a
second word is ignored. -/
def Obligations.FirstWordDecides : Prop :=
  ∀ w0 : Word,
    (∃ e, e ≠ .incompleteFetch ∧ decode w0 none = .error ⟨e, w0⟩ ∧
        ∀ w1, decode w0 (some w1) = .error ⟨e, w0⟩)
      ∨ (decode w0 none = .error ⟨.incompleteFetch, w0⟩ ∧
          ∀ w1, ∃ i, decode w0 (some w1) = .ok i ∧ i.size = 2)
      ∨ (∃ i, i.size = 1 ∧ decode w0 none = .ok i ∧ ∀ w1, decode w0 (some w1) = .ok i)

/-- R127, R301: `AddressingModeError`, code 2 with the first word, is a format N `MOVE` with an assigned register code, mode 7, and `RR` 2
or 3, or `RR` 1 in a store. -/
def Obligations.AddressingModeErrorExactly : Prop :=
  ∀ (w0 : Word) (w1 : Option Word),
    (∃ e, decode w0 w1 = .error e ∧ e.code = 2 ∧ e.word0 = w0) ↔
      w0.extractLsb' 11 5 = 1 ∧ (w0.extractLsb' 5 5).toNat ≤ 22 ∧ w0.extractLsb' 2 3 = 7 ∧
        (2 ≤ (w0.extractLsb' 0 2).toNat ∨ (w0.extractLsb' 0 2 = 1 ∧ w0[10] = true))

/-- R84, R85, R87 to R100: words written out from the encoding tables, one or more of every format and family,
and the instruction each stands for. -/
def Obligations.WrittenOutWordsDecode : Prop :=
  decode 0b1_0_000_001_00000000 none = .ok (.regmove .x0 .x1)
    ∧ decode 0b1_1_0_00_000_0_110_0_100 none = .ok (.tfrAddr (.memread .r0 .x0) .r0 .a)
    ∧ decode 0b1_0_110_000_0_010_0_000 (some 5) = .ok (.add (.immload 5 .x0) .x0 .a)
    ∧ decode 0b1_1_1_00_011_1_1_11_1_111 none = .ok (.macr (.memwrite .y1 .r0) .minus .y1y0 .b)
    ∧ decode 0b01_0_0_01_0_11_0_0_10_0_00 none
        = .ok (.macD (.dualread .r0 .postInc .x0 .postAdd .y0) .plus .x0y0 .a)
    ∧ decode 0b01_1_00_01_0_10_0_00_0_00 none = .ok (.dualreg .x0 .x1 .a .y0 .plus .x0y0 .a)
    ∧ decode 0b00_0001_00100_00000 none = .ok (.moveReg .a .x0)
    ∧ decode 0b00_0010_01000_110_10 (some 0xFFF0) = .ok (.moveLoadDisp .a1 .r2 0xFFF0)
    ∧ decode 0b00_0011_01010_100_11 none = .ok (.moveStore .a2 .preDec .r3)
    ∧ decode 0b00_0100_101_0_000000 (some 0xFFFF) = .ok (.eori 0xFFFF .a)
    ∧ decode 0b00_0101_0_0_11101111 none = .ok (.andc 0xEF)
    ∧ decode 0b00_1000_0010_111101 none = .ok (.bccShort .ne 0x3D)
    ∧ decode 0b00_1010_0011_10_00_11 none = .ok (.jccReg .eq .r3)
    ∧ decode 0b00_1011_1_0000_10101 none = .ok (.doReg .lc)
    ∧ decode 0b00_0000_0000000010 none = .ok .next
    ∧ decode 0b00_1111_1111_00011_1 none = .ok (.bchgMem 15 .r3)

/-! ## The reference step -/

/-- R268: when the words at `pc` decode to an opcode, `step` is the evaluation of that opcode at that state
and nothing more; the second word is decoded where the first needs it. -/
def Obligations.StepRunsTheDecodedOpcode : Prop :=
  ∀ (s : State) (i : Instr),
    (decode (s.fetch s.pc) none = .ok i ∨
      (decode (s.fetch s.pc) none = .error ⟨.incompleteFetch, s.fetch s.pc⟩ ∧
        decode (s.fetch s.pc) (some (s.fetch (s.pc + 1))) = .ok i)) →
    step s = exec i s

/-- R268, R80 to R104: `step` runs the opcode whose own words stand at `pc`. -/
def Obligations.StepRunsThePlacedOpcode : Prop :=
  ∀ (s : State) (i : Instr), i.wellFormed = true → s.fetch s.pc = (encode i).1 →
    (∀ w, (encode i).2 = some w → s.fetch (s.pc + 1) = w) → step s = exec i s

/-- R268, R302, R306: an undecodable first word stops `step` with the error, the `pc` and the word; any other
first word, one in need of a second word among them, decodes at `pc` to an opcode, and `step` goes on to the next
state that opcode's meaning gives. -/
def Obligations.StepGoesOnOrStops : Prop :=
  ∀ s : State,
    (∀ e, decode (s.fetch s.pc) none = .error e → e.name ≠ .incompleteFetch →
      e.word0 = s.fetch s.pc ∧ step s = .fault (.stopped e s.pc (s.fetch s.pc))) ∧
    ((∀ e, decode (s.fetch s.pc) none = .error e → e.name = .incompleteFetch) →
      ∃ i t, s.decodeAtPc = .ok i ∧ exec i s = .next t ∧ step s = .next t)

/-- R269, size consistency: the step of a one-word opcode depends on one word of P space. -/
def Obligations.OneWordOpcodeReadsOneWord : Prop :=
  ∀ (s : State) (p : Memory) (i : Instr), decode (s.fetch s.pc) none = .ok i →
    p.readWord s.pc = s.fetch s.pc →
    ∃ t, step s = .next t ∧ step { s with pmem := p } = .next { t with pmem := p }

/-! ## The whole machine -/

/-- R265 (a), R305: evaluation never fails, whatever the state. -/
def Obligations.EvaluationNeverFails : Prop :=
  ∀ (i : Instr) (s : State), ∃ t, exec i s = .next t ∧ t.pmem = s.pmem

/-- R34, R320: the reset state has the invariant: an empty loop stack and canonical memory (log 2, log 3: the
canonical form is the model's). -/
def Obligations.ResetHasTheInvariant : Prop := State.reset.Inv

/-- R34: every step keeps the invariant: at most eight loop-stack entries are valid, and both spaces stay in
canonical form (log 2, log 3: the canonical form is the model's). -/
def Obligations.StepKeepsTheInvariant : Prop :=
  ∀ s t : State, s.Inv → step s = .next t → t.Inv

/-- R31, R266, R269: flag elision. No flag outside the flags-modified set of an opcode changes. -/
def Obligations.FlagsOutsideTheSetAreKept : Prop :=
  ∀ (i : Instr) (s : State), i.wellFormed = true →
    ∃ t, exec i s = .next t ∧ ∀ f, f ∉ flagsModified i → t.sr.get f = s.sr.get f

/-- R265 (c), R266: only the registers the peek accessor names as destinations, and those the parallel move
writes, change; `SR` is under the flags. -/
def Obligations.OnlyDestinationsChange : Prop :=
  ∀ (i : Instr) (s : State), ∃ t, exec i s = .next t ∧
    ∀ r, r ≠ .sr → home r ∉ (destinations i).map home → home r ∉ moveRegsOf i → t.full r = s.full r

/-- R266: all that an opcode without a move does (the accesses it makes, `pc`, the loop stack, X space, its
destinations and the flags it modifies) depends on the registers the peek accessor names as sources, `pc`, the
loop stack and X space alone. What only leaves a register as it was shows that register: `ENDDO` on an empty
stack keeps `LA` and `LC` (rule R35), and a loop opcode that does not set `SE` keeps it (rule R30). -/
def Obligations.OnlySourcesAreRead : Prop :=
  ∀ (i : Instr) (s s' : State), hasNoMove i = true →
    (∀ r ∈ sources i, s'.view r = s.view r) →
    s'.pc = s.pc → s'.ls = s.ls → s'.lsp = s.lsp → s'.xmem = s.xmem →
    ∃ t t', exec i s = .next t ∧ exec i s' = .next t' ∧ busCalls i s' = busCalls i s ∧
      t'.pc = t.pc ∧ t'.ls = t.ls ∧ t'.lsp = t.lsp ∧ t'.xmem = t.xmem ∧
      (∀ r ∈ destinations i, r ≠ .sr → t'.view r = t.view r ∨
        (i = .enddo ∧ s.lsp = 0 ∧ t.view r = s.view r ∧ t'.view r = s'.view r)) ∧
      ((usesLoopStack i = true → s'.sr.se = s.sr.se) → ∀ f ∈ flagsModified i, t'.sr.get f = t.sr.get f)

/-- R34: no opcode but `DO`, `NEXT` and `ENDDO` changes the loop stack or depends on it. -/
def Obligations.LoopStackIsForLoopsAlone : Prop :=
  ∀ (i : Instr) (s : State) (ls : LoopStack) (n : Nat), usesLoopStack i = false →
    ∃ t, exec i s = .next t ∧ t.ls = s.ls ∧ t.lsp = s.lsp ∧
      exec i (s.setLoop ls n) = .next (t.setLoop ls n)

/-- R30: the loop-stack error flag stays set until an opcode that writes `SR` as a whole. -/
def Obligations.StackErrorIsSticky : Prop :=
  ∀ (i : Instr) (s : State), s.sr.se = true → .sr ∉ destinations i →
    ∃ t, exec i s = .next t ∧ t.sr.se = true

/-- R29, R240, R265 (d): an opcode that is no branch, jump or `NEXT` advances `pc` by its size, modulo 2^16. -/
def Obligations.PcAdvancesByTheSize : Prop :=
  ∀ (i : Instr) (s : State), overridesPc i = false →
    ∃ t, exec i s = .next t ∧ t.pc.toNat = (s.pc.toNat + i.size) % 65536

/-- R66: the accesses of every opcode, in order. Moves: one read, one write, or two reads. Format N: one read
for a load, one write for a store, one read for `BTST`, a read then a write of the same word for `BSET`, `BCLR`,
`BCHG`, and no other. -/
def Obligations.BusCallsAreTheTable : Prop :=
  (∀ i s m, pMoveOf i = some m → busCalls i s = moveCalls m s)
    ∧ (∀ i s m, dMoveOf i = some m → busCalls i s = dualCalls m s)
    ∧ (∀ dst mode rn s ea, (resolve (addrModeOf mode rn) s).ea = some ea →
        busCalls (.moveLoad dst mode rn) s = [.memRead ea])
    ∧ (∀ dst rn disp s, busCalls (.moveLoadDisp dst rn disp) s = [.memRead (s.addr rn + disp)])
    ∧ (∀ dst addr s, busCalls (.moveLoadAbs dst addr) s = [.memRead addr])
    ∧ (∀ dst imm s, busCalls (.moveImm dst imm) s = [])
    ∧ (∀ src mode rn s ea, (resolve (addrModeOf mode rn) s).ea = some ea →
        busCalls (.moveStore src mode rn) s = [.memWrite ea (s.reg16 src)])
    ∧ (∀ src rn disp s,
        busCalls (.moveStoreDisp src rn disp) s = [.memWrite (s.addr rn + disp) (s.reg16 src)])
    ∧ (∀ src addr s, busCalls (.moveStoreAbs src addr) s = [.memWrite addr (s.reg16 src)])
    ∧ (∀ bit rn s, busCalls (.btstMem bit rn) s = [.memRead (s.addr rn)])
    ∧ (∀ bit rn s, busCalls (.bsetMem bit rn) s =
        [.memRead (s.addr rn),
          .memWrite (s.addr rn) (s.memRead (s.addr rn) ||| BitVec.twoPow 16 bit.toNat)])
    ∧ (∀ bit rn s, busCalls (.bclrMem bit rn) s =
        [.memRead (s.addr rn),
          .memWrite (s.addr rn) (s.memRead (s.addr rn) &&& ~~~BitVec.twoPow 16 bit.toNat)])
    ∧ (∀ bit rn s, busCalls (.bchgMem bit rn) s =
        [.memRead (s.addr rn),
          .memWrite (s.addr rn) (s.memRead (s.addr rn) ^^^ BitVec.twoPow 16 bit.toNat)])
    ∧ (∀ i s, busCalls i s ≠ [] → pMoveOf i = none → dMoveOf i = none →
        (∃ dst mode rn, i = .moveLoad dst mode rn) ∨ (∃ dst rn disp, i = .moveLoadDisp dst rn disp)
          ∨ (∃ dst addr, i = .moveLoadAbs dst addr) ∨ (∃ src mode rn, i = .moveStore src mode rn)
          ∨ (∃ src rn disp, i = .moveStoreDisp src rn disp) ∨ (∃ src addr, i = .moveStoreAbs src addr)
          ∨ (∃ bit rn, i = .btstMem bit rn) ∨ (∃ bit rn, i = .bsetMem bit rn)
          ∨ (∃ bit rn, i = .bclrMem bit rn) ∨ (∃ bit rn, i = .bchgMem bit rn))

/-- R60, R62, R66 on plain memory (log 1): X space changes by the writes an opcode makes and by nothing else,
and a word written reads back. -/
def Obligations.DataSpaceChangesByBusWrites : Prop :=
  ∀ (i : Instr) (s : State), ∃ t, exec i s = .next t ∧
    (∀ addr v, .memWrite addr v ∈ busCalls i s → t.memRead addr = v) ∧
    (∀ k, (∀ addr v, .memWrite addr v ∈ busCalls i s → k ≠ 2 * addr.toNat ∧ k ≠ 2 * addr.toNat + 1) →
      t.xmem.read k = s.xmem.read k)

/-- R265 (b): the post-state is a function of the opcode, the pre-state and the answers to the reads: two data
spaces that answer the opcode's reads alike give the same registers and the same accesses (log 1: the model's own data space is plain memory). -/
def Obligations.OnlyTheAnswersMatter : Prop :=
  ∀ (i : Instr) (s : State) (x : Memory),
    (∀ addr, .memRead addr ∈ busCalls i s → x.readWord addr = s.memRead addr) →
    busCalls i { s with xmem := x } = busCalls i s ∧
      ∃ t t', exec i s = .next t ∧ exec i { s with xmem := x } = .next t' ∧ t' = { t with xmem := t'.xmem }

/-- R60, R66, R148, R213 to R216, R221, R265 (b): whatever words the host answers, also two different ones for one
address, the two slots of a dual read, paired with any of the four multiplies, get the first and the second; a
load gets the word; the bit instructions take `C` from it, and `BSET`, `BCLR` and `BCHG` write it back changed. -/
def Obligations.AnyAnswersOfTheHost : Prop :=
  ∀ (v1 v2 : Word) (s : State),
    (∀ i base mode1 dst1 mode2 dst2, dMoveOf i = some (.dualread base mode1 dst1 mode2 dst2) →
      let t := evaluateOpcode i [v1, v2] [] s
      t.reg16 (xName dst1) = v1 ∧ t.reg16 (yName dst2) = v2 ∧ t.xmem = s.xmem)
      ∧ (∀ rn dst i, pMoveOf i = some (.memread rn dst) → Moved dst v1 (evaluateOpcode i [v1] [] s))
      ∧ (∀ addr dst i, pMoveOf i = some (.absread addr dst) → Moved dst v1 (evaluateOpcode i [v1] [] s))
      ∧ (∀ dst mode rn, PortHolds dst v1 s (evaluateOpcode (.moveLoad dst mode rn) [] [v1] s))
      ∧ (∀ dst rn disp, PortHolds dst v1 s (evaluateOpcode (.moveLoadDisp dst rn disp) [] [v1] s))
      ∧ (∀ dst addr, PortHolds dst v1 s (evaluateOpcode (.moveLoadAbs dst addr) [] [v1] s))
      ∧ (∀ bit rn, ∀ i ∈ [Instr.btstMem bit rn, .bsetMem bit rn, .bclrMem bit rn, .bchgMem bit rn],
          (evaluateOpcode i [] [v1] s).sr.c = v1.getLsbD bit.toNat)
      ∧ (∀ bit rn, busCallsWith (.bsetMem bit rn) s [] [v1] =
          [.memRead (s.addr rn), .memWrite (s.addr rn) (v1 ||| BitVec.twoPow 16 bit.toNat)])
      ∧ (∀ bit rn, busCallsWith (.bclrMem bit rn) s [] [v1] =
          [.memRead (s.addr rn), .memWrite (s.addr rn) (v1 &&& ~~~BitVec.twoPow 16 bit.toNat)])
      ∧ (∀ bit rn, busCallsWith (.bchgMem bit rn) s [] [v1] =
          [.memRead (s.addr rn), .memWrite (s.addr rn) (v1 ^^^ BitVec.twoPow 16 bit.toNat)])

/-! ## Parallel moves -/

/-- R141 to R147, R151, R152: the parallel move of every format P opcode is done, from the pre-state, whatever the
paired instruction does. That a stored word reads back is plain memory's (log 1). -/
def Obligations.ParallelMoveIsDone : Prop :=
  ∀ (i : Instr) (m : PMove) (s : State), pMoveOf i = some m → ∃ t, exec i s = .next t ∧ MoveDone m s t

/-- R148, R149, R151, R152: the dual move of every format D opcode is done, from the pre-state, whatever the
multiply does. The words read are those of plain memory (log 1). -/
def Obligations.DualMoveIsDone : Prop :=
  ∀ (i : Instr) (m : DMove) (s : State), dMoveOf i = some m → ∃ t, exec i s = .next t ∧ DualDone m s t

/-- R141 to R147, R162: a format P move with `NOP` does its move and nothing else, and the format N `NOP` only
advances `pc`. The names of these opcodes are log 4's; memory is log 1's. -/
def Obligations.MovesWithNopAndNop : Prop :=
  ∀ s : State,
    exec .empty s = .next (s.setPc (s.pc + 1))
      ∧ (∀ src dst, ∃ t, exec (.regmove src dst) s = .next t ∧ Moved dst (s.reg16 (moveName src)) t ∧
          FrameNext 1 [moveName dst] [] s t)
      ∧ (∀ imm dst, ∃ t, exec (.immload imm dst) s = .next t ∧ Moved dst imm t ∧
          FrameNext 2 [moveName dst] [] s t)
      ∧ (∀ addr dst, ∃ t, exec (.absread addr dst) s = .next t ∧ Moved dst (s.memRead addr) t ∧
          FrameNext 2 [moveName dst] [] s t)
      ∧ (∀ src addr, ∃ t, exec (.abswrite src addr) s = .next t ∧
          t.memRead addr = s.reg16 (moveName src) ∧
          FrameNext 2 [] (moveStores (.abswrite src addr) s) s t)
      ∧ (∀ rn dst, ∃ t, exec (.memread rn dst) s = .next t ∧ Moved dst (s.memRead (s.addr rn)) t ∧
          t.addr rn = s.addr rn + 1 ∧ FrameNext 1 [moveName dst, addrName rn] [] s t)
      ∧ (∀ src rn, ∃ t, exec (.memwrite src rn) s = .next t ∧
          t.memRead (s.addr rn) = s.reg16 (moveName src) ∧ t.addr rn = s.addr rn + 1 ∧
          FrameNext 1 [addrName rn] (moveStores (.memwrite src rn) s) s t)
      ∧ exec .nop s = .next (s.setPc (s.pc + 1))

/-! ## Arithmetic, logic, shifts and transfers -/

/-- R163, R164: `CLR` and `TST`. -/
def Obligations.ClrAndTst : Prop :=
  ∀ (m : PMove) (d : Acc) (s : State),
    (∃ t, exec (.clr m d) s = .next t ∧ PDone m d 0 ⟨s.sr.c, false, true, false, s.sr.se⟩ s t)
      ∧ (∃ t, exec (.tst m d) s = .next t ∧
          PFlags m ⟨s.sr.c, false, decide (s.acc d = 0), (s.acc d).msb, s.sr.se⟩ s t)

/-- R165, R166: `ABS` and `NEG`: the result wraps, and `V` is set for the most negative value alone. -/
def Obligations.AbsAndNeg : Prop :=
  ∀ (m : PMove) (d : Acc) (s : State),
    let x := s.acc d
    let r := if x.msb then -x else x
    (∃ t, exec (.abs m d) s = .next t ∧
      PDone m d r ⟨s.sr.c, decide (x = 0x8000000000), decide (r = 0), r.msb, s.sr.se⟩ s t)
      ∧ (∃ t, exec (.neg m d) s = .next t ∧
        PDone m d (-x)
          ⟨decide (x ≠ 0), decide (x = 0x8000000000), decide (x = 0), (-x).msb, s.sr.se⟩ s t)

/-- R168: `RND` rounds to the nearest multiple of 2^16, ties to even, and its low word is zero. -/
def Obligations.RndRoundsToNearestEven : Prop :=
  ∀ (m : PMove) (d : Acc) (s : State), ∃ t e, exec (.rnd m d) s = .next t ∧
    NearestEven (s.acc d).toInt e ∧ (BitVec.ofInt 40 e).extractLsb' 0 16 = 0#16 ∧
    PDone m d (BitVec.ofInt 40 e) (flags40 s.sr.c e (BitVec.ofInt 40 e) s.sr) s t

/-- R167, R181 to R183: `NOT`, `AND`, `OR`, `EOR` on the high word. -/
def Obligations.LogicOnTheHighWord : Prop :=
  ∀ (m : PMove) (src : DataReg) (d : Acc) (s : State),
    let x := highPart (s.acc d)
    (∃ t, exec (.not m d) s = .next t ∧
      PDone m d (replaceHigh (s.acc d) (~~~x)) (flags16 s.sr.c (~~~x) s.sr) s t)
      ∧ (∃ t, exec (.and m src d) s = .next t ∧
        PDone m d (replaceHigh (s.acc d) (x &&& s.data src)) (flags16 s.sr.c (x &&& s.data src) s.sr) s t)
      ∧ (∃ t, exec (.or m src d) s = .next t ∧
        PDone m d (replaceHigh (s.acc d) (x ||| s.data src)) (flags16 s.sr.c (x ||| s.data src) s.sr) s t)
      ∧ (∃ t, exec (.eor m src d) s = .next t ∧
        PDone m d (replaceHigh (s.acc d) (x ^^^ s.data src)) (flags16 s.sr.c (x ^^^ s.data src) s.sr) s t)

/-- R169, R184, R185: the three forms of `TFR`, with no flag and no limiting. -/
def Obligations.TransfersIntoAnAccumulator : Prop :=
  ∀ (m : PMove) (d : Acc) (s : State),
    (∃ t, exec (.tfrAcc m d) s = .next t ∧ PWrote m d (s.acc (otherAcc d)) s t)
      ∧ (∀ src, ∃ t, exec (.tfrData m src d) s = .next t ∧ PWrote m d (aligned (s.data src)) s t)
      ∧ (∀ rn, ∃ t, exec (.tfrAddr m rn d) s = .next t ∧ PWrote m d (aligned (s.addr rn)) s t)

/-- R170, R171: `ASL` and `ASR` on all 40 bits; `V` of `ASL` says that twice the value does not fit. -/
def Obligations.ArithmeticShifts : Prop :=
  ∀ (m : PMove) (d : Acc) (s : State),
    let x := s.acc d
    (∃ t, exec (.asl m d) s = .next t ∧
      PDone m d (x <<< 1) (flags40 x.msb (2 * x.toInt) (x <<< 1) s.sr) s t)
      ∧ (∃ t, exec (.asr m d) s = .next t ∧
        PDone m d (x.sshiftRight 1)
          ⟨x[0], false, decide (x.sshiftRight 1 = 0), (x.sshiftRight 1).msb, s.sr.se⟩ s t)

/-- R172 to R175: `LSL`, `LSR`, `ROL`, `ROR` on the high word, the rotates through the old carry. -/
def Obligations.ShiftsAndRotatesOfTheHighWord : Prop :=
  ∀ (m : PMove) (d : Acc) (s : State),
    let x := highPart (s.acc d)
    let xl := x <<< 1 ||| if s.sr.c then 1 else 0
    let xr := x >>> 1 ||| if s.sr.c then 0x8000 else 0
    (∃ t, exec (.lsl m d) s = .next t ∧
      PDone m d (replaceHigh (s.acc d) (x <<< 1)) (flags16 x[15] (x <<< 1) s.sr) s t)
      ∧ (∃ t, exec (.lsr m d) s = .next t ∧
        PDone m d (replaceHigh (s.acc d) (x >>> 1)) (flags16 x[0] (x >>> 1) s.sr) s t)
      ∧ (∃ t, exec (.rol m d) s = .next t ∧
        PDone m d (replaceHigh (s.acc d) xl) (flags16 x[15] xl s.sr) s t)
      ∧ (∃ t, exec (.ror m d) s = .next t ∧
        PDone m d (replaceHigh (s.acc d) xr) (flags16 x[0] xr s.sr) s t)

/-- R176, R178: `INC` and both forms of `ADD`: the sum modulo 2^40, the carry out of bit 39, the signed overflow. -/
def Obligations.IncAndAdd : Prop :=
  ∀ (m : PMove) (d : Acc) (s : State),
    let x := s.acc d
    (∃ t, exec (.inc m d) s = .next t ∧
      PDone m d (x + 1) (flags40 (decide (2 ^ 40 ≤ x.toNat + 1)) (x.toInt + 1) (x + 1) s.sr) s t)
      ∧ (∀ src, let y := aligned (s.data src); ∃ t, exec (.add m src d) s = .next t ∧
        PDone m d (x + y) (flags40 (decide (2 ^ 40 ≤ x.toNat + y.toNat)) (x.toInt + y.toInt) (x + y) s.sr)
          s t)
      ∧ (let y := s.acc (otherAcc d); ∃ t, exec (.addAcc m d) s = .next t ∧
        PDone m d (x + y) (flags40 (decide (2 ^ 40 ≤ x.toNat + y.toNat)) (x.toInt + y.toInt) (x + y) s.sr)
          s t)

/-- R177, R179: `DEC` and both forms of `SUB`: the difference modulo 2^40, the borrow, the signed overflow. -/
def Obligations.DecAndSub : Prop :=
  ∀ (m : PMove) (d : Acc) (s : State),
    let x := s.acc d
    (∃ t, exec (.dec m d) s = .next t ∧
      PDone m d (x - 1) (flags40 (decide (x = 0)) (x.toInt - 1) (x - 1) s.sr) s t)
      ∧ (∀ src, let y := aligned (s.data src); ∃ t, exec (.sub m src d) s = .next t ∧
        PDone m d (x - y) (flags40 (decide (x.toNat < y.toNat)) (x.toInt - y.toInt) (x - y) s.sr) s t)
      ∧ (let y := s.acc (otherAcc d); ∃ t, exec (.subAcc m d) s = .next t ∧
        PDone m d (x - y) (flags40 (decide (x.toNat < y.toNat)) (x.toInt - y.toInt) (x - y) s.sr) s t)

/-- R180, R225: the compares write the flags of the difference and no register. -/
def Obligations.ComparesWriteFlagsAlone : Prop :=
  ∀ (d : Acc) (s : State),
    let x := s.acc d
    (∀ m src, let y := aligned (s.data src); ∃ t, exec (.cmp m src d) s = .next t ∧
      PFlags m (flags40 (decide (x.toNat < y.toNat)) (x.toInt - y.toInt) (x - y) s.sr) s t)
      ∧ (∀ m, let y := s.acc (otherAcc d); ∃ t, exec (.cmpAcc m d) s = .next t ∧
        PFlags m (flags40 (decide (x.toNat < y.toNat)) (x.toInt - y.toInt) (x - y) s.sr) s t)
      ∧ (∀ imm, let y := aligned imm; ∃ t, exec (.cmpi imm d) s = .next t ∧
        t.sr = flags40 (decide (x.toNat < y.toNat)) (x.toInt - y.toInt) (x - y) s.sr ∧
        FrameNext 2 [.sr] [] s t)

/-- R180, R241: after a compare the conditions are the comparisons of the two 40-bit values, signed and
unsigned. -/
def Obligations.ConditionsAfterACompare : Prop :=
  ∀ (d : Acc) (s : State),
    (∀ m src, ∃ t, exec (.cmp m src d) s = .next t ∧ CompareMeaning (s.acc d) (aligned (s.data src)) t.sr)
      ∧ (∀ m, ∃ t, exec (.cmpAcc m d) s = .next t ∧ CompareMeaning (s.acc d) (s.acc (otherAcc d)) t.sr)
      ∧ (∀ imm, ∃ t, exec (.cmpi imm d) s = .next t ∧ CompareMeaning (s.acc d) (aligned imm) t.sr)

/-! ## Multiply -/

/-- R201 to R205: `MPY` and `MPYR` in format P: the fractional product, exact or rounded; `V` is never set. -/
def Obligations.MultiplyInFormatP : Prop :=
  ∀ (m : PMove) (k : Sign) (q : Pair) (d : Acc) (s : State),
    let p := fracProduct k q s
    (∃ t, exec (.mpy m k q d) s = .next t ∧ (BitVec.ofInt 40 p).toInt = p ∧
      PDone m d (BitVec.ofInt 40 p) ⟨s.sr.c, false, decide (p = 0), decide (p < 0), s.sr.se⟩ s t)
      ∧ (∃ t e, exec (.mpyr m k q d) s = .next t ∧ NearestEven p e ∧ (BitVec.ofInt 40 e).toInt = e ∧
        PDone m d (BitVec.ofInt 40 e) ⟨s.sr.c, false, decide (e = 0), decide (e < 0), s.sr.se⟩ s t)

/-- R206, R207: `MAC` and `MACR` in format P: the exact sum, wrapped, or rounded once and wrapped. -/
def Obligations.AccumulateInFormatP : Prop :=
  ∀ (m : PMove) (k : Sign) (q : Pair) (d : Acc) (s : State),
    let e := (s.acc d).toInt + fracProduct k q s
    (∃ t, exec (.mac m k q d) s = .next t ∧
      PDone m d (BitVec.ofInt 40 e) (flags40 s.sr.c e (BitVec.ofInt 40 e) s.sr) s t)
      ∧ (∃ t e', exec (.macr m k q d) s = .next t ∧ NearestEven e e' ∧
        PDone m d (BitVec.ofInt 40 e') (flags40 s.sr.c e' (BitVec.ofInt 40 e') s.sr) s t)

/-- R148, R149, R203 to R207: the multiply of every format D opcode, on the pre-state: `MPY` with either dual move,
`MPYR`, `MAC`, `MACR`. The names of the `MPY` opcodes are log 4's. -/
def Obligations.MultiplyInFormatD : Prop :=
  ∀ (k : Sign) (q : DualPair) (d : Acc) (s : State),
    let p := fracProduct k (dualPairOfPair q) s
    (∀ base mode1 dst1 mode2 dst2, ∃ t,
      exec (.dualread base mode1 dst1 mode2 dst2 k q d) s = .next t ∧
      DDone (.dualread base mode1 dst1 mode2 dst2) d (BitVec.ofInt 40 p)
        ⟨s.sr.c, false, decide (p = 0), decide (p < 0), s.sr.se⟩ s t)
      ∧ (∀ src1 dst1 src2 dst2, ∃ t, exec (.dualreg src1 dst1 src2 dst2 k q d) s = .next t ∧
        DDone (.dualreg src1 dst1 src2 dst2) d (BitVec.ofInt 40 p)
          ⟨s.sr.c, false, decide (p = 0), decide (p < 0), s.sr.se⟩ s t)
      ∧ (∀ m, ∃ t e, exec (.mpyrD m k q d) s = .next t ∧ NearestEven p e ∧
        DDone m d (BitVec.ofInt 40 e) ⟨s.sr.c, false, decide (e = 0), decide (e < 0), s.sr.se⟩ s t)
      ∧ (∀ m, ∃ t e, exec (.macD m k q d) s = .next t ∧ e = (s.acc d).toInt + p ∧
        DDone m d (BitVec.ofInt 40 e) (flags40 s.sr.c e (BitVec.ofInt 40 e) s.sr) s t)
      ∧ (∀ m, ∃ t e, exec (.macrD m k q d) s = .next t ∧ NearestEven ((s.acc d).toInt + p) e ∧
        DDone m d (BitVec.ofInt 40 e) (flags40 s.sr.c e (BitVec.ofInt 40 e) s.sr) s t)

/-! ## Bit instructions -/

/-- R211, R213: `BTST` on a register and on a memory word writes `C` alone. Memory is log 1's. -/
def Obligations.BitTest : Prop :=
  ∀ (bit : BitVec 4) (s : State),
    (∀ r, r.isBitOperand = true → ∃ t, exec (.btstReg bit r) s = .next t ∧
      t.sr = { s.sr with c := (s.reg16 r).getLsbD bit.toNat } ∧ FrameNext 1 [.sr] [] s t)
      ∧ (∀ rn, ∃ t, exec (.btstMem bit rn) s = .next t ∧
        t.sr = { s.sr with c := (s.memRead (s.addr rn)).getLsbD bit.toNat } ∧ FrameNext 1 [.sr] [] s t)

/-- R211, R212, R214 to R216: `BSET`, `BCLR` and `BCHG` on a register: the operand is written through the register
port, `C` is the bit that was read. -/
def Obligations.BitChangeInARegister : Prop :=
  ∀ (bit : BitVec 4) (r : Reg) (s : State), r.isBitOperand = true →
    let v := s.reg16 r
    (∃ t, exec (.bsetReg bit r) s = .next t ∧ PortHolds r (v ||| BitVec.twoPow 16 bit.toNat) s t ∧
      t.sr = { s.sr with c := v.getLsbD bit.toNat } ∧ FrameNext 1 [home r, .sr] [] s t)
      ∧ (∃ t, exec (.bclrReg bit r) s = .next t ∧ PortHolds r (v &&& ~~~BitVec.twoPow 16 bit.toNat) s t ∧
        t.sr = { s.sr with c := v.getLsbD bit.toNat } ∧ FrameNext 1 [home r, .sr] [] s t)
      ∧ (∃ t, exec (.bchgReg bit r) s = .next t ∧ PortHolds r (v ^^^ BitVec.twoPow 16 bit.toNat) s t ∧
        t.sr = { s.sr with c := v.getLsbD bit.toNat } ∧ FrameNext 1 [home r, .sr] [] s t)

/-- R211, R214 to R216: `BSET`, `BCLR` and `BCHG` on the memory word at `Rn`, which keeps its value. That the word reads
back is plain memory's (log 1). -/
def Obligations.BitChangeInMemory : Prop :=
  ∀ (bit : BitVec 4) (rn : AddrReg) (s : State),
    let v := s.memRead (s.addr rn)
    (∃ t, exec (.bsetMem bit rn) s = .next t ∧
      t.memRead (s.addr rn) = v ||| BitVec.twoPow 16 bit.toNat ∧
      t.sr = { s.sr with c := v.getLsbD bit.toNat } ∧ FrameNext 1 [.sr] [s.addr rn] s t)
      ∧ (∃ t, exec (.bclrMem bit rn) s = .next t ∧
        t.memRead (s.addr rn) = v &&& ~~~BitVec.twoPow 16 bit.toNat ∧
        t.sr = { s.sr with c := v.getLsbD bit.toNat } ∧ FrameNext 1 [.sr] [s.addr rn] s t)
      ∧ (∃ t, exec (.bchgMem bit rn) s = .next t ∧
        t.memRead (s.addr rn) = v ^^^ BitVec.twoPow 16 bit.toNat ∧
        t.sr = { s.sr with c := v.getLsbD bit.toNat } ∧ FrameNext 1 [.sr] [s.addr rn] s t)

/-- R212: on `A2` and `B2`, `BTST`, `BSET`, `BCLR` and `BCHG` of the bits 8 to 15 change no accumulator, and `C` is the
sign of the extension. -/
def Obligations.HighBitsOfAnExtension : Prop :=
  ∀ (bit : BitVec 4) (s : State), 8 ≤ bit.toNat →
    (∀ i ∈ [Instr.btstReg bit .a2, .bsetReg bit .a2, .bclrReg bit .a2, .bchgReg bit .a2],
      exec i s = .next { s with sr := { s.sr with c := s.a.msb }, pc := s.pc + 1 })
      ∧ (∀ i ∈ [Instr.btstReg bit .b2, .bsetReg bit .b2, .bclrReg bit .b2, .bchgReg bit .b2],
        exec i s = .next { s with sr := { s.sr with c := s.b.msb }, pc := s.pc + 1 })

/-! ## Format N moves and immediates -/

/-- R220: `MOVE S,D`: the destination holds the 16-bit value of the source through the register port. -/
def Obligations.MoveBetweenRegisters : Prop :=
  ∀ (src dst : Reg) (s : State), ∃ t, exec (.moveReg src dst) s = .next t ∧
    PortHolds dst (s.reg16 src) s t ∧ FrameNext 1 [home dst] [] s t

/-- R121, R126, R221: the loads and the immediate: the word at the effective address, or the immediate, goes
through the register port; an updated address register holds its update unless it is the destination. Memory is
log 1's. -/
def Obligations.LoadsIntoARegister : Prop :=
  ∀ (dst : Reg) (s : State),
    (∀ mode rn, ∃ t ea, exec (.moveLoad dst mode rn) s = .next t ∧
      (resolve (addrModeOf mode rn) s).ea = some ea ∧ PortHolds dst (s.memRead ea) s t ∧
      (dst ≠ addrName rn → t.addr rn = addrAfter mode rn s) ∧
      FrameNext 1 (home dst :: modeUpdates mode rn) [] s t)
      ∧ (∀ rn disp, ∃ t, exec (.moveLoadDisp dst rn disp) s = .next t ∧
        PortHolds dst (s.memRead (s.addr rn + disp)) s t ∧ FrameNext 2 [home dst] [] s t)
      ∧ (∀ addr, ∃ t, exec (.moveLoadAbs dst addr) s = .next t ∧
        PortHolds dst (s.memRead addr) s t ∧ FrameNext 2 [home dst] [] s t)
      ∧ (∀ imm, ∃ t, exec (.moveImm dst imm) s = .next t ∧
        PortHolds dst imm s t ∧ FrameNext 2 [home dst] [] s t)

/-- R121, R126, R222: the stores: the pre-state value goes to the effective address, the resolver's on the
pre-state, and an updated address register holds its update. That the word reads back is plain memory's (log 1). -/
def Obligations.StoresFromARegister : Prop :=
  ∀ (src : Reg) (s : State),
    (∀ mode rn, ∃ t ea, exec (.moveStore src mode rn) s = .next t ∧
      (resolve (addrModeOf mode rn) s).ea = some ea ∧ t.memRead ea = s.reg16 src ∧
      t.addr rn = addrAfter mode rn s ∧ FrameNext 1 (modeUpdates mode rn) [ea] s t)
      ∧ (∀ rn disp, ∃ t ea, exec (.moveStoreDisp src rn disp) s = .next t ∧
        (resolve (.displaced rn disp) s).ea = some ea ∧ t.memRead ea = s.reg16 src ∧
        FrameNext 2 [] [ea] s t)
      ∧ (∀ addr, ∃ t ea, exec (.moveStoreAbs src addr) s = .next t ∧
        (resolve (.absolute addr) s).ea = some ea ∧ t.memRead ea = s.reg16 src ∧
        FrameNext 2 [] [ea] s t)

/-- R121, R122: the effective address and the update of every mode, all sums modulo 2^16. -/
def Obligations.AddressingModes : Prop :=
  ∀ (rn : AddrReg) (s : State),
    (∀ mode, ((resolve (addrModeOf mode rn) s).ea.map BitVec.toNat =
        some (match mode with
          | .indirect => (s.addr rn).toNat
          | .postInc => (s.addr rn).toNat
          | .postDec => (s.addr rn).toNat
          | .postAdd => (s.addr rn).toNat
          | .preDec => ((s.addr rn).toNat + 65535) % 65536
          | .indexed => ((s.addr rn).toNat + (s.offset rn).toNat) % 65536))
      ∧ ((resolve (addrModeOf mode rn) s).update.map fun u => (u.reg, u.value.toNat)) =
        (match mode with
          | .indirect => none
          | .postInc => some (rn, ((s.addr rn).toNat + 1) % 65536)
          | .postDec => some (rn, ((s.addr rn).toNat + 65535) % 65536)
          | .postAdd => some (rn, ((s.addr rn).toNat + (s.offset rn).toNat) % 65536)
          | .preDec => some (rn, ((s.addr rn).toNat + 65535) % 65536)
          | .indexed => none))
      ∧ (∀ disp, resolve (.displaced rn disp) s =
          ⟨some (BitVec.ofNat 16 ((s.addr rn).toNat + disp.toNat)), none, none⟩)
      ∧ (∀ addr, resolve (.absolute addr) s = ⟨some addr, none, none⟩)
      ∧ (∀ imm, resolve (.immediate imm) s = ⟨none, some imm, none⟩)

/-- R187, R223, R224, R226 to R228: `ADDI` and `SUBI` on all 40 bits, `ANDI`, `ORI` and `EORI` on the high word. -/
def Obligations.AccumulatorImmediates : Prop :=
  ∀ (imm : Word) (d : Acc) (s : State),
    let x := s.acc d
    let y := aligned imm
    let h := highPart x
    (∃ t, exec (.addi imm d) s = .next t ∧
      NDone 2 d (x + y) (flags40 (decide (2 ^ 40 ≤ x.toNat + y.toNat)) (x.toInt + y.toInt) (x + y) s.sr) s t)
      ∧ (∃ t, exec (.subi imm d) s = .next t ∧
        NDone 2 d (x - y) (flags40 (decide (x.toNat < y.toNat)) (x.toInt - y.toInt) (x - y) s.sr) s t)
      ∧ (∃ t, exec (.andi imm d) s = .next t ∧
        NDone 2 d (replaceHigh x (h &&& imm)) (flags16 s.sr.c (h &&& imm) s.sr) s t)
      ∧ (∃ t, exec (.ori imm d) s = .next t ∧
        NDone 2 d (replaceHigh x (h ||| imm)) (flags16 s.sr.c (h ||| imm) s.sr) s t)
      ∧ (∃ t, exec (.eori imm d) s = .next t ∧
        NDone 2 d (replaceHigh x (h ^^^ imm)) (flags16 s.sr.c (h ^^^ imm) s.sr) s t)

/-- R229, R230: `ANDC` and `ORC` on the five implemented bits; bits 7 to 5 of the immediate are ignored. -/
def Obligations.StatusImmediate : Prop :=
  ∀ (i : BitVec 8) (s : State),
    let f := s.sr
    (∃ t, exec (.andc i) s = .next t ∧
      t.sr = ⟨f.c && i[0], f.v && i[1], f.z && i[2], f.n && i[3], f.se && i[4]⟩ ∧
      FrameNext 1 [.sr] [] s t)
      ∧ (∃ t, exec (.orc i) s = .next t ∧
        t.sr = ⟨f.c || i[0], f.v || i[1], f.z || i[2], f.n || i[3], f.se || i[4]⟩ ∧
        FrameNext 1 [.sr] [] s t)

/-! ## Branches, jumps and loops -/

/-- R242 to R245: a branch or jump whose condition holds goes to its target, otherwise to the next opcode, and
changes nothing but `pc`. -/
def Obligations.BranchesAndJumps : Prop :=
  ∀ (c : Cond) (s : State),
    (∀ e, exec (.bccShort c e) s = .next (s.setPc
        (if holds c s.sr then BitVec.ofInt 16 (s.pc.toNat + 1 + e.toInt) else s.pc + 1)))
      ∧ (∀ e, exec (.bccLong c e) s = .next (s.setPc
        (if holds c s.sr then BitVec.ofInt 16 (s.pc.toNat + 2 + e.toInt) else s.pc + 2)))
      ∧ (∀ target, exec (.jccAbs c target) s = .next (s.setPc
        (if holds c s.sr then target else s.pc + 2)))
      ∧ (∀ rn, exec (.jccReg c rn) s = .next (s.setPc
        (if holds c s.sr then s.addr rn else s.pc + 1)))

/-- R241: the truth of each condition over `SR[3:0] = N Z V C` from 0b0000 to 0b1111, the leftmost digit first;
`SE` takes part in none. -/
def Obligations.ConditionTable : Prop :=
  ∀ (k : Fin 16) (se : Bool),
    let f : Status := ⟨k.val.testBit 0, k.val.testBit 1, k.val.testBit 2, k.val.testBit 3, se⟩
    let at_ := fun (bits : BitVec 16) => bits.getLsbD (15 - k.val)
    holds .cc f = at_ 0b1010101010101010 ∧ holds .cs f = at_ 0b0101010101010101
      ∧ holds .ne f = at_ 0b1111000011110000 ∧ holds .eq f = at_ 0b0000111100001111
      ∧ holds .pl f = at_ 0b1111111100000000 ∧ holds .mi f = at_ 0b0000000011111111
      ∧ holds .vc f = at_ 0b1100110011001100 ∧ holds .vs f = at_ 0b0011001100110011
      ∧ holds .ge f = at_ 0b1100110000110011 ∧ holds .lt f = at_ 0b0011001111001100
      ∧ holds .gt f = at_ 0b1100000000110000 ∧ holds .le f = at_ 0b0011111111001111
      ∧ holds .hi f = at_ 0b1010000010100000 ∧ holds .ls f = at_ 0b0101111101011111
      ∧ holds .al f = at_ 0b1111111111111111

/-- R34, R246, R247: `DO` pushes the old loop, starts the new one at the next opcode with its count, and goes on. -/
def Obligations.DoOpensALoop : Prop :=
  ∀ s : State,
    (∀ i : BitVec 8, ∃ t, exec (.doImm i) s = .next t ∧ Pushed s.la s.lc s t ∧ t.la = s.pc + 1 ∧
      t.lc = i.setWidth 16 ∧ t.pc = s.pc + 1 ∧ LoopFrame s t)
      ∧ (∀ src, ∃ t, exec (.doReg src) s = .next t ∧ Pushed s.la s.lc s t ∧ t.la = s.pc + 1 ∧
        t.lc = s.reg16 src ∧ t.pc = s.pc + 1 ∧ LoopFrame s t)

/-- R35, R248, R249: `NEXT` counts down and loops back, or pops on the last iteration (`LC` = 1; `LC` = 0 runs
on); `ENDDO` pops; both go on to the next opcode after a pop. -/
def Obligations.NextAndEnddo : Prop :=
  ∀ s : State,
    (s.lc ≠ 1 → exec .next s = .next ((s.setLc (s.lc - 1)).setPc s.la))
      ∧ (s.lc = 1 → ∃ t, exec .next s = .next t ∧ Popped s t ∧ t.pc = s.pc + 1 ∧ LoopFrame s t)
      ∧ (∃ t, exec .enddo s = .next t ∧ Popped s t ∧ t.pc = s.pc + 1 ∧ LoopFrame s t)

/-- R34, R35, R250: a loop opened, by either form of `DO`, with room on the stack and abandoned at once leaves the enclosing loop as it
was. -/
def Obligations.DoThenEnddoRestores : Prop :=
  ∀ (i : Instr) (s : State), (∃ count, i = .doImm count) ∨ (∃ src, i = .doReg src) → s.lsp < 8 →
    ∃ t u, exec i s = .next t ∧ exec .enddo t = .next u ∧
      u.la = s.la ∧ u.lc = s.lc ∧ u.lsp = s.lsp ∧ u.sr = s.sr ∧ u.pc = s.pc + 2 ∧
      RegsKept [] s u ∧ u.xmem = s.xmem ∧ u.pmem = s.pmem ∧
      ∀ j < 8, j ≠ s.lsp → u.ls.get j = s.ls.get j

/-! ## Registers and reset -/

/-- R26: the two readings of `Limit` agree: by comparison with the 16-bit range, and by whether the bits 39 to 31
are all equal. -/
def Obligations.LimitIsSaturation : Prop :=
  ∀ acc : Wide,
    limit acc = (if (0x007FFFFFFF : Int) < acc.toInt then 0x7FFF
      else if acc.toInt < -0x0080000000 then 0x8000 else acc.extractLsb' 16 16)
    ∧ limit acc = (if acc.extractLsb' 31 9 = 0#9 ∨ acc.extractLsb' 31 9 = 0x1FF#9 then acc.extractLsb' 16 16
      else if acc.msb then 0x8000 else 0x7FFF)

/-- R38: `SetReg16(c, v)`: the register holds the value as the port writes it, and no other state changes. -/
def Obligations.SetReg16IsTheTable : Prop :=
  ∀ (r : Reg) (v : Word) (s : State),
    PortHolds r v s (s.setReg16 r v) ∧ (s.setReg16 r v).pc = s.pc ∧ Frame [home r] [] s (s.setReg16 r v)

/-- R320: reset in place clears all of CoreState, whatever it was, and keeps both spaces; `State.reset` is the
reset state with nothing listed in them (log 2). -/
def Obligations.ResetInPlace : Prop :=
  ∀ s : State,
    s.resetInPlace =
      ⟨0, 0, 0, 0, 0, 0, 0, 0, 0, 0, 0, 0, 0, 0, ⟨false, false, false, false, false⟩, 0, 0, 0,
        ⟨⟨0, 0⟩, ⟨0, 0⟩, ⟨0, 0⟩, ⟨0, 0⟩, ⟨0, 0⟩, ⟨0, 0⟩, ⟨0, 0⟩, ⟨0, 0⟩⟩, 0, s.xmem, s.pmem⟩
    ∧ State.reset = { State.reset.resetInPlace with xmem := [], pmem := [] }

/-- R321: after reset every register reads as zero through the port, every condition that tests for a clear flag
holds, and the others do not. -/
def Obligations.ResetView : Prop :=
  (∀ r, State.reset.reg16 r = 0)
    ∧ (∀ c ∈ [Cond.cc, .ne, .pl, .vc, .ge, .gt, .hi, .al], holds c State.reset.sr = true)
    ∧ (∀ c ∈ [Cond.cs, .eq, .mi, .vs, .lt, .le, .ls], holds c State.reset.sr = false)

/-! ## Disassembly -/

/-- R284, R286: two format P moves with the same text are the same move. -/
def Obligations.MoveTextIsInjective : Prop :=
  ∀ m m' : PMove, moveText m = moveText m' → m = m'
end

