-- ==== Sys2Proof/Laws/Memory.lean ====
section
/-! SUPPORT. The laws of plain memory: a read after a write, byte by byte and word by word, and the
canonical form under every operation. -/

namespace Sys2Proof.Machine

/-! ## Read after write, for every list -/

@[simp] theorem Memory.read_nil (k : Nat) : Memory.read [] k = Config.unlistedByte := rfl

theorem Memory.read_erase (m : Memory) (k j : Nat) :
    (m.erase k).read j = if j = k then Config.unlistedByte else m.read j := by
  induction m with
  | nil => simp [Memory.erase]
  | cons c m ih =>
    obtain ⟨k', v⟩ := c
    by_cases h : k' = k
    · subst h
      by_cases hj : j = k'
      · subst hj; simpa [Memory.erase] using ih
      · simp [Memory.erase, ih, hj, Memory.read, Ne.symm hj]
    · by_cases hj : k' = j
      · subst hj; simp [Memory.erase, h, Memory.read]
      · simp [Memory.erase, h, Memory.read, hj, ih]

theorem Memory.read_insert_ne (m : Memory) (k j : Nat) (v : Byte) (h : j ≠ k) :
    (m.insert k v).read j = m.read j := by
  induction m with
  | nil => simp [Memory.insert, Memory.read, Ne.symm h]
  | cons c m ih =>
    obtain ⟨k', v'⟩ := c
    by_cases hk : k < k'
    · simp [Memory.insert, hk, Memory.read, Ne.symm h]
    · simp [Memory.insert, hk, Memory.read, ih]

theorem Memory.read_insert_erase_self (m : Memory) (k : Nat) (v : Byte) :
    ((m.erase k).insert k v).read k = v := by
  induction m with
  | nil => simp [Memory.erase, Memory.insert, Memory.read]
  | cons c m ih =>
    obtain ⟨k', v'⟩ := c
    by_cases h : k' = k
    · simp [Memory.erase, h, ih]
    · by_cases hk : k < k'
      · simp [Memory.erase, h, Memory.insert, hk, Memory.read]
      · simp [Memory.erase, h, Memory.insert, hk, Memory.read, ih]

/-- A byte read after a byte write: the written byte at its address, what was there elsewhere. -/
theorem Memory.read_write (m : Memory) (k j : Nat) (v : Byte) :
    (m.write k v).read j = if j = k then v else m.read j := by
  unfold Memory.write
  by_cases hv : v = Config.unlistedByte
  · simp only [if_pos hv, Memory.read_erase]; split <;> simp_all
  · simp only [if_neg hv]
    by_cases hj : j = k
    · subst hj; simp [Memory.read_insert_erase_self]
    · simp [Memory.read_insert_ne _ _ _ _ hj, Memory.read_erase, hj]

/-- A byte read after a word write. -/
theorem Memory.read_writeWord (m : Memory) (addr v : Word) (j : Nat) :
    (m.writeWord addr v).read j =
      if j = 2 * addr.toNat + 1 then v.extractLsb' 8 8
      else if j = 2 * addr.toNat then v.extractLsb' 0 8 else m.read j := by
  simp only [Memory.writeWord, Memory.read_write]

/-- The bytes outside a written word are as before. -/
theorem Memory.read_writeWord_ne (m : Memory) (addr v : Word) (j : Nat)
    (h : j ≠ 2 * addr.toNat) (h' : j ≠ 2 * addr.toNat + 1) :
    (m.writeWord addr v).read j = m.read j := by
  simp [Memory.read_writeWord, h, h']

/-- A word read after a word write at the same address. -/
@[simp] theorem Memory.readWord_writeWord_self (m : Memory) (addr v : Word) :
    (m.writeWord addr v).readWord addr = v := by
  have h0 : (2 * addr.toNat = 2 * addr.toNat + 1) = False := by simp
  simp only [Memory.readWord, Memory.read_writeWord, if_true, h0, if_false]
  apply BitVec.eq_of_getLsbD_eq
  intro i hi
  rw [BitVec.getLsbD_append]
  by_cases h : i < 8
  · simp [h]
  · simp only [h, decide_false, BitVec.getLsbD_extractLsb']
    have h' : i - 8 < 8 := by omega
    simp [h', show 8 + (i - 8) = i by omega]

/-- A word read after a word write at another address. -/
theorem Memory.readWord_writeWord_ne (m : Memory) (addr addr' v : Word) (h : addr' ≠ addr) :
    (m.writeWord addr v).readWord addr' = m.readWord addr' := by
  have hn : addr'.toNat ≠ addr.toNat := fun e => h (BitVec.eq_of_toNat_eq e)
  simp only [Memory.readWord]
  rw [Memory.read_writeWord_ne _ _ _ _ (by omega) (by omega),
    Memory.read_writeWord_ne _ _ _ _ (by omega) (by omega)]

/-- A word read after a word write. -/
theorem Memory.readWord_writeWord (m : Memory) (addr addr' v : Word) :
    (m.writeWord addr v).readWord addr' = if addr' = addr then v else m.readWord addr' := by
  split
  · rename_i h; subst h; simp
  · rename_i h; exact Memory.readWord_writeWord_ne _ _ _ _ h

@[simp] theorem memRead_memWrite_self (s : State) (addr v : Word) :
    (s.memWrite addr v).memRead addr = v := by
  simp [State.memRead, State.memWrite]

theorem memRead_memWrite (s : State) (addr addr' v : Word) :
    (s.memWrite addr v).memRead addr' = if addr' = addr then v else s.memRead addr' :=
  Memory.readWord_writeWord _ _ _ _

/-! ## The canonical form -/

theorem Memory.wfFrom_mono {lo lo' : Nat} (m : Memory) (h : lo' ≤ lo) (hm : Memory.wfFrom lo m = true) :
    Memory.wfFrom lo' m = true := by
  cases m with
  | nil => rfl
  | cons c m =>
    obtain ⟨k, v⟩ := c
    simp only [Memory.wfFrom, Bool.and_eq_true, decide_eq_true_eq] at hm ⊢
    exact ⟨⟨⟨by omega, hm.1.1.2⟩, hm.1.2⟩, hm.2⟩

theorem Memory.wfFrom_erase (m : Memory) (lo k : Nat) (hm : Memory.wfFrom lo m = true) :
    Memory.wfFrom lo (m.erase k) = true := by
  induction m generalizing lo with
  | nil => rfl
  | cons c m ih =>
    obtain ⟨k', v⟩ := c
    simp only [Memory.wfFrom, Bool.and_eq_true, decide_eq_true_eq] at hm
    by_cases h : k' = k
    · simp only [Memory.erase, h, if_true]
      exact Memory.wfFrom_mono _ (by omega) (ih (k' + 1) hm.2)
    · simp only [Memory.erase, h, if_false, Memory.wfFrom, Bool.and_eq_true, decide_eq_true_eq]
      exact ⟨hm.1, ih (k' + 1) hm.2⟩

/-- No cell is listed at `k`. -/
def Memory.unlisted (m : Memory) (k : Nat) : Prop := ∀ c ∈ m, c.1 ≠ k

theorem Memory.unlisted_erase (m : Memory) (k : Nat) : (m.erase k).unlisted k := by
  induction m with
  | nil => intro c hc; simp [Memory.erase] at hc
  | cons c m ih =>
    obtain ⟨k', v⟩ := c
    by_cases h : k' = k
    · simpa only [Memory.erase, h, if_true] using ih
    · intro d hd
      simp only [Memory.erase, h, if_false, List.mem_cons] at hd
      rcases hd with rfl | hd
      · exact h
      · exact ih d hd

theorem Memory.wfFrom_insert (m : Memory) (lo k : Nat) (v : Byte) (hm : Memory.wfFrom lo m = true)
    (hl : lo ≤ k) (hk : k < Config.cellLimit) (hv : v ≠ Config.unlistedByte) (hu : m.unlisted k) :
    Memory.wfFrom lo (m.insert k v) = true := by
  induction m generalizing lo with
  | nil => simp [Memory.insert, Memory.wfFrom, hl, hk, hv]
  | cons c m ih =>
    obtain ⟨k', v'⟩ := c
    have hne : k' ≠ k := hu (k', v') (by simp)
    simp only [Memory.wfFrom, Bool.and_eq_true, decide_eq_true_eq] at hm
    by_cases h : k < k'
    · simp only [Memory.insert, h, if_true, Memory.wfFrom, Bool.and_eq_true, decide_eq_true_eq, bne_iff_ne]
      exact ⟨⟨⟨hl, hk⟩, hv⟩, ⟨⟨by omega, hm.1.1.2⟩, by simpa using hm.1.2⟩, hm.2⟩
    · simp only [Memory.insert, h, if_false, Memory.wfFrom, Bool.and_eq_true, decide_eq_true_eq]
      exact ⟨hm.1, ih (k' + 1) hm.2 (by omega) fun d hd => hu d (by simp [hd])⟩

/-- A byte write inside the space keeps the canonical form. -/
theorem Memory.wf_write (m : Memory) (k : Nat) (v : Byte) (hm : m.wf = true) (hk : k < Config.cellLimit) :
    (m.write k v).wf = true := by
  unfold Memory.write
  by_cases hv : v = Config.unlistedByte
  · rw [if_pos hv]; exact Memory.wfFrom_erase m 0 k hm
  · rw [if_neg hv]
    exact Memory.wfFrom_insert _ 0 k v (Memory.wfFrom_erase m 0 k hm) (Nat.zero_le k) hk hv
      (Memory.unlisted_erase m k)

/-- A word write keeps the canonical form: every word address is inside the space. -/
theorem Memory.wf_writeWord (m : Memory) (addr v : Word) (hm : m.wf = true) :
    (m.writeWord addr v).wf = true := by
  have ha : addr.toNat < 65536 := addr.isLt
  have hc : Config.cellLimit = 131072 := rfl
  exact Memory.wf_write _ _ _ (Memory.wf_write _ _ _ hm (by omega)) (by omega)

theorem memWrite_wf (s : State) (addr v : Word) (h : s.xmem.wf = true) :
    (s.memWrite addr v).xmem.wf = true := Memory.wf_writeWord _ _ _ h

theorem loadAtPc_wf (s : State) (word0 word1 : Word) (h : s.pmem.wf = true) :
    (s.loadAtPc word0 word1).pmem.wf = true :=
  Memory.wf_writeWord _ _ _ (Memory.wf_writeWord _ _ _ h)

/-- Equal contents in canonical form are equal data: what a cell reads as tells the listed cells. -/
theorem Memory.read_below (m : Memory) (lo k : Nat) (hm : Memory.wfFrom lo m = true) (hk : k < lo) :
    m.read k = Config.unlistedByte := by
  induction m generalizing lo with
  | nil => rfl
  | cons c m ih =>
    obtain ⟨k', v⟩ := c
    simp only [Memory.wfFrom, Bool.and_eq_true, decide_eq_true_eq] at hm
    have : k' ≠ k := by omega
    simpa only [Memory.read, this, if_false] using ih (k' + 1) hm.2 (by omega)

theorem Memory.ext_of_read {lo : Nat} (m m' : Memory) (hm : Memory.wfFrom lo m = true)
    (hm' : Memory.wfFrom lo m' = true) (h : ∀ k, m.read k = m'.read k) : m = m' := by
  induction m generalizing lo m' with
  | nil =>
    cases m' with
    | nil => rfl
    | cons c m' =>
      obtain ⟨k, v⟩ := c
      have hk := h k
      simp [Memory.wfFrom] at hm'
      simp [Memory.read] at hk
      exact absurd hk.symm hm'.1.2
  | cons c m ih =>
    obtain ⟨k, v⟩ := c
    simp only [Memory.wfFrom, Bool.and_eq_true, decide_eq_true_eq, bne_iff_ne] at hm
    cases m' with
    | nil =>
      have hk := h k
      simp [Memory.read] at hk
      exact absurd hk hm.1.2
    | cons c' m' =>
      obtain ⟨k', v'⟩ := c'
      simp only [Memory.wfFrom, Bool.and_eq_true, decide_eq_true_eq, bne_iff_ne] at hm'
      have hkk : k = k' := by
        by_contra hne
        rcases Nat.lt_or_gt_of_ne hne with hlt | hgt
        · have := h k
          simp only [Memory.read, if_true, Ne.symm hne, if_false] at this
          rw [Memory.read_below m' (k' + 1) k hm'.2 (by omega)] at this
          exact hm.1.2 this
        · have := h k'
          simp only [Memory.read, if_true, hne, if_false] at this
          rw [Memory.read_below m (k + 1) k' hm.2 (by omega)] at this
          exact hm'.1.2 this.symm
      subst hkk
      have hv : v = v' := by simpa [Memory.read] using h k
      subst hv
      have ht : ∀ j, Memory.read m j = Memory.read m' j := by
        intro j
        by_cases hj : k = j
        · subst hj
          rw [Memory.read_below m (k + 1) k hm.2 (by omega), Memory.read_below m' (k + 1) k hm'.2 (by omega)]
        · simpa [Memory.read, hj] using h j
      rw [ih m' hm.2 hm'.2 ht]

/-! ## Reset -/

theorem reset_xmem_wf : State.reset.xmem.wf = true := rfl

theorem reset_pmem_wf : State.reset.pmem.wf = true := rfl

end Sys2Proof.Machine
end

