-- ==== Sys2Proof/Laws/State.lean ====
section
/-! SUPPORT. One lemma per field per update of the state, so that no proof unfolds an update. -/

namespace Sys2Proof.Machine

/-! ## `setData` -/

@[simp] theorem setData_a (s : State) (r : DataReg) (v : Word) :
    (s.setData r v).a = s.a := by cases r <;> rfl
@[simp] theorem setData_b (s : State) (r : DataReg) (v : Word) :
    (s.setData r v).b = s.b := by cases r <;> rfl
@[simp] theorem setData_r0 (s : State) (r : DataReg) (v : Word) :
    (s.setData r v).r0 = s.r0 := by cases r <;> rfl
@[simp] theorem setData_r1 (s : State) (r : DataReg) (v : Word) :
    (s.setData r v).r1 = s.r1 := by cases r <;> rfl
@[simp] theorem setData_r2 (s : State) (r : DataReg) (v : Word) :
    (s.setData r v).r2 = s.r2 := by cases r <;> rfl
@[simp] theorem setData_r3 (s : State) (r : DataReg) (v : Word) :
    (s.setData r v).r3 = s.r3 := by cases r <;> rfl
@[simp] theorem setData_n0 (s : State) (r : DataReg) (v : Word) :
    (s.setData r v).n0 = s.n0 := by cases r <;> rfl
@[simp] theorem setData_n1 (s : State) (r : DataReg) (v : Word) :
    (s.setData r v).n1 = s.n1 := by cases r <;> rfl
@[simp] theorem setData_n2 (s : State) (r : DataReg) (v : Word) :
    (s.setData r v).n2 = s.n2 := by cases r <;> rfl
@[simp] theorem setData_n3 (s : State) (r : DataReg) (v : Word) :
    (s.setData r v).n3 = s.n3 := by cases r <;> rfl
@[simp] theorem setData_sr (s : State) (r : DataReg) (v : Word) :
    (s.setData r v).sr = s.sr := by cases r <;> rfl
@[simp] theorem setData_lc (s : State) (r : DataReg) (v : Word) :
    (s.setData r v).lc = s.lc := by cases r <;> rfl
@[simp] theorem setData_la (s : State) (r : DataReg) (v : Word) :
    (s.setData r v).la = s.la := by cases r <;> rfl
@[simp] theorem setData_pc (s : State) (r : DataReg) (v : Word) :
    (s.setData r v).pc = s.pc := by cases r <;> rfl
@[simp] theorem setData_ls (s : State) (r : DataReg) (v : Word) :
    (s.setData r v).ls = s.ls := by cases r <;> rfl
@[simp] theorem setData_lsp (s : State) (r : DataReg) (v : Word) :
    (s.setData r v).lsp = s.lsp := by cases r <;> rfl
@[simp] theorem setData_xmem (s : State) (r : DataReg) (v : Word) :
    (s.setData r v).xmem = s.xmem := by cases r <;> rfl
@[simp] theorem setData_pmem (s : State) (r : DataReg) (v : Word) :
    (s.setData r v).pmem = s.pmem := by cases r <;> rfl
/-- The group the update writes, by name: the named register alone. -/
theorem setData_data (s : State) (r r' : DataReg) (v : Word) :
    (s.setData r v).data r' = if r' = r then v else s.data r' := by
  cases r <;> cases r' <;> rfl
@[simp] theorem setData_data_self (s : State) (r : DataReg) (v : Word) :
    (s.setData r v).data r = v := by cases r <;> rfl
theorem setData_data_ne (s : State) (r r' : DataReg) (v : Word) (h : r' ≠ r) :
    (s.setData r v).data r' = s.data r' := by simp [setData_data, h]
@[simp] theorem setData_x0_x0 (s : State) (v : Word) :
    (s.setData .x0 v).x0 = v := rfl
@[simp] theorem setData_x0_x1 (s : State) (v : Word) :
    (s.setData .x0 v).x1 = s.x1 := rfl
@[simp] theorem setData_x0_y0 (s : State) (v : Word) :
    (s.setData .x0 v).y0 = s.y0 := rfl
@[simp] theorem setData_x0_y1 (s : State) (v : Word) :
    (s.setData .x0 v).y1 = s.y1 := rfl
@[simp] theorem setData_x1_x0 (s : State) (v : Word) :
    (s.setData .x1 v).x0 = s.x0 := rfl
@[simp] theorem setData_x1_x1 (s : State) (v : Word) :
    (s.setData .x1 v).x1 = v := rfl
@[simp] theorem setData_x1_y0 (s : State) (v : Word) :
    (s.setData .x1 v).y0 = s.y0 := rfl
@[simp] theorem setData_x1_y1 (s : State) (v : Word) :
    (s.setData .x1 v).y1 = s.y1 := rfl
@[simp] theorem setData_y0_x0 (s : State) (v : Word) :
    (s.setData .y0 v).x0 = s.x0 := rfl
@[simp] theorem setData_y0_x1 (s : State) (v : Word) :
    (s.setData .y0 v).x1 = s.x1 := rfl
@[simp] theorem setData_y0_y0 (s : State) (v : Word) :
    (s.setData .y0 v).y0 = v := rfl
@[simp] theorem setData_y0_y1 (s : State) (v : Word) :
    (s.setData .y0 v).y1 = s.y1 := rfl
@[simp] theorem setData_y1_x0 (s : State) (v : Word) :
    (s.setData .y1 v).x0 = s.x0 := rfl
@[simp] theorem setData_y1_x1 (s : State) (v : Word) :
    (s.setData .y1 v).x1 = s.x1 := rfl
@[simp] theorem setData_y1_y0 (s : State) (v : Word) :
    (s.setData .y1 v).y0 = s.y0 := rfl
@[simp] theorem setData_y1_y1 (s : State) (v : Word) :
    (s.setData .y1 v).y1 = v := rfl
@[simp] theorem setData_acc (s : State) (r : DataReg) (v : Word) (q : Acc) :
    (s.setData r v).acc q = s.acc q := by cases q <;> cases r <;> rfl
@[simp] theorem setData_addr (s : State) (r : DataReg) (v : Word) (q : AddrReg) :
    (s.setData r v).addr q = s.addr q := by cases q <;> cases r <;> rfl
@[simp] theorem setData_offset (s : State) (r : DataReg) (v : Word) (q : AddrReg) :
    (s.setData r v).offset q = s.offset q := by cases q <;> cases r <;> rfl

/-! ## `setAcc` -/

@[simp] theorem setAcc_x0 (s : State) (r : Acc) (v : Wide) :
    (s.setAcc r v).x0 = s.x0 := by cases r <;> rfl
@[simp] theorem setAcc_x1 (s : State) (r : Acc) (v : Wide) :
    (s.setAcc r v).x1 = s.x1 := by cases r <;> rfl
@[simp] theorem setAcc_y0 (s : State) (r : Acc) (v : Wide) :
    (s.setAcc r v).y0 = s.y0 := by cases r <;> rfl
@[simp] theorem setAcc_y1 (s : State) (r : Acc) (v : Wide) :
    (s.setAcc r v).y1 = s.y1 := by cases r <;> rfl
@[simp] theorem setAcc_r0 (s : State) (r : Acc) (v : Wide) :
    (s.setAcc r v).r0 = s.r0 := by cases r <;> rfl
@[simp] theorem setAcc_r1 (s : State) (r : Acc) (v : Wide) :
    (s.setAcc r v).r1 = s.r1 := by cases r <;> rfl
@[simp] theorem setAcc_r2 (s : State) (r : Acc) (v : Wide) :
    (s.setAcc r v).r2 = s.r2 := by cases r <;> rfl
@[simp] theorem setAcc_r3 (s : State) (r : Acc) (v : Wide) :
    (s.setAcc r v).r3 = s.r3 := by cases r <;> rfl
@[simp] theorem setAcc_n0 (s : State) (r : Acc) (v : Wide) :
    (s.setAcc r v).n0 = s.n0 := by cases r <;> rfl
@[simp] theorem setAcc_n1 (s : State) (r : Acc) (v : Wide) :
    (s.setAcc r v).n1 = s.n1 := by cases r <;> rfl
@[simp] theorem setAcc_n2 (s : State) (r : Acc) (v : Wide) :
    (s.setAcc r v).n2 = s.n2 := by cases r <;> rfl
@[simp] theorem setAcc_n3 (s : State) (r : Acc) (v : Wide) :
    (s.setAcc r v).n3 = s.n3 := by cases r <;> rfl
@[simp] theorem setAcc_sr (s : State) (r : Acc) (v : Wide) :
    (s.setAcc r v).sr = s.sr := by cases r <;> rfl
@[simp] theorem setAcc_lc (s : State) (r : Acc) (v : Wide) :
    (s.setAcc r v).lc = s.lc := by cases r <;> rfl
@[simp] theorem setAcc_la (s : State) (r : Acc) (v : Wide) :
    (s.setAcc r v).la = s.la := by cases r <;> rfl
@[simp] theorem setAcc_pc (s : State) (r : Acc) (v : Wide) :
    (s.setAcc r v).pc = s.pc := by cases r <;> rfl
@[simp] theorem setAcc_ls (s : State) (r : Acc) (v : Wide) :
    (s.setAcc r v).ls = s.ls := by cases r <;> rfl
@[simp] theorem setAcc_lsp (s : State) (r : Acc) (v : Wide) :
    (s.setAcc r v).lsp = s.lsp := by cases r <;> rfl
@[simp] theorem setAcc_xmem (s : State) (r : Acc) (v : Wide) :
    (s.setAcc r v).xmem = s.xmem := by cases r <;> rfl
@[simp] theorem setAcc_pmem (s : State) (r : Acc) (v : Wide) :
    (s.setAcc r v).pmem = s.pmem := by cases r <;> rfl
/-- The group the update writes, by name: the named register alone. -/
theorem setAcc_acc (s : State) (r r' : Acc) (v : Wide) :
    (s.setAcc r v).acc r' = if r' = r then v else s.acc r' := by
  cases r <;> cases r' <;> rfl
@[simp] theorem setAcc_acc_self (s : State) (r : Acc) (v : Wide) :
    (s.setAcc r v).acc r = v := by cases r <;> rfl
theorem setAcc_acc_ne (s : State) (r r' : Acc) (v : Wide) (h : r' ≠ r) :
    (s.setAcc r v).acc r' = s.acc r' := by simp [setAcc_acc, h]
@[simp] theorem setAcc_a_a (s : State) (v : Wide) :
    (s.setAcc .a v).a = v := rfl
@[simp] theorem setAcc_a_b (s : State) (v : Wide) :
    (s.setAcc .a v).b = s.b := rfl
@[simp] theorem setAcc_b_a (s : State) (v : Wide) :
    (s.setAcc .b v).a = s.a := rfl
@[simp] theorem setAcc_b_b (s : State) (v : Wide) :
    (s.setAcc .b v).b = v := rfl
@[simp] theorem setAcc_data (s : State) (r : Acc) (v : Wide) (q : DataReg) :
    (s.setAcc r v).data q = s.data q := by cases q <;> cases r <;> rfl
@[simp] theorem setAcc_addr (s : State) (r : Acc) (v : Wide) (q : AddrReg) :
    (s.setAcc r v).addr q = s.addr q := by cases q <;> cases r <;> rfl
@[simp] theorem setAcc_offset (s : State) (r : Acc) (v : Wide) (q : AddrReg) :
    (s.setAcc r v).offset q = s.offset q := by cases q <;> cases r <;> rfl

/-! ## `setAddr` -/

@[simp] theorem setAddr_x0 (s : State) (r : AddrReg) (v : Word) :
    (s.setAddr r v).x0 = s.x0 := by cases r <;> rfl
@[simp] theorem setAddr_x1 (s : State) (r : AddrReg) (v : Word) :
    (s.setAddr r v).x1 = s.x1 := by cases r <;> rfl
@[simp] theorem setAddr_y0 (s : State) (r : AddrReg) (v : Word) :
    (s.setAddr r v).y0 = s.y0 := by cases r <;> rfl
@[simp] theorem setAddr_y1 (s : State) (r : AddrReg) (v : Word) :
    (s.setAddr r v).y1 = s.y1 := by cases r <;> rfl
@[simp] theorem setAddr_a (s : State) (r : AddrReg) (v : Word) :
    (s.setAddr r v).a = s.a := by cases r <;> rfl
@[simp] theorem setAddr_b (s : State) (r : AddrReg) (v : Word) :
    (s.setAddr r v).b = s.b := by cases r <;> rfl
@[simp] theorem setAddr_n0 (s : State) (r : AddrReg) (v : Word) :
    (s.setAddr r v).n0 = s.n0 := by cases r <;> rfl
@[simp] theorem setAddr_n1 (s : State) (r : AddrReg) (v : Word) :
    (s.setAddr r v).n1 = s.n1 := by cases r <;> rfl
@[simp] theorem setAddr_n2 (s : State) (r : AddrReg) (v : Word) :
    (s.setAddr r v).n2 = s.n2 := by cases r <;> rfl
@[simp] theorem setAddr_n3 (s : State) (r : AddrReg) (v : Word) :
    (s.setAddr r v).n3 = s.n3 := by cases r <;> rfl
@[simp] theorem setAddr_sr (s : State) (r : AddrReg) (v : Word) :
    (s.setAddr r v).sr = s.sr := by cases r <;> rfl
@[simp] theorem setAddr_lc (s : State) (r : AddrReg) (v : Word) :
    (s.setAddr r v).lc = s.lc := by cases r <;> rfl
@[simp] theorem setAddr_la (s : State) (r : AddrReg) (v : Word) :
    (s.setAddr r v).la = s.la := by cases r <;> rfl
@[simp] theorem setAddr_pc (s : State) (r : AddrReg) (v : Word) :
    (s.setAddr r v).pc = s.pc := by cases r <;> rfl
@[simp] theorem setAddr_ls (s : State) (r : AddrReg) (v : Word) :
    (s.setAddr r v).ls = s.ls := by cases r <;> rfl
@[simp] theorem setAddr_lsp (s : State) (r : AddrReg) (v : Word) :
    (s.setAddr r v).lsp = s.lsp := by cases r <;> rfl
@[simp] theorem setAddr_xmem (s : State) (r : AddrReg) (v : Word) :
    (s.setAddr r v).xmem = s.xmem := by cases r <;> rfl
@[simp] theorem setAddr_pmem (s : State) (r : AddrReg) (v : Word) :
    (s.setAddr r v).pmem = s.pmem := by cases r <;> rfl
/-- The group the update writes, by name: the named register alone. -/
theorem setAddr_addr (s : State) (r r' : AddrReg) (v : Word) :
    (s.setAddr r v).addr r' = if r' = r then v else s.addr r' := by
  cases r <;> cases r' <;> rfl
@[simp] theorem setAddr_addr_self (s : State) (r : AddrReg) (v : Word) :
    (s.setAddr r v).addr r = v := by cases r <;> rfl
theorem setAddr_addr_ne (s : State) (r r' : AddrReg) (v : Word) (h : r' ≠ r) :
    (s.setAddr r v).addr r' = s.addr r' := by simp [setAddr_addr, h]
@[simp] theorem setAddr_r0_r0 (s : State) (v : Word) :
    (s.setAddr .r0 v).r0 = v := rfl
@[simp] theorem setAddr_r0_r1 (s : State) (v : Word) :
    (s.setAddr .r0 v).r1 = s.r1 := rfl
@[simp] theorem setAddr_r0_r2 (s : State) (v : Word) :
    (s.setAddr .r0 v).r2 = s.r2 := rfl
@[simp] theorem setAddr_r0_r3 (s : State) (v : Word) :
    (s.setAddr .r0 v).r3 = s.r3 := rfl
@[simp] theorem setAddr_r1_r0 (s : State) (v : Word) :
    (s.setAddr .r1 v).r0 = s.r0 := rfl
@[simp] theorem setAddr_r1_r1 (s : State) (v : Word) :
    (s.setAddr .r1 v).r1 = v := rfl
@[simp] theorem setAddr_r1_r2 (s : State) (v : Word) :
    (s.setAddr .r1 v).r2 = s.r2 := rfl
@[simp] theorem setAddr_r1_r3 (s : State) (v : Word) :
    (s.setAddr .r1 v).r3 = s.r3 := rfl
@[simp] theorem setAddr_r2_r0 (s : State) (v : Word) :
    (s.setAddr .r2 v).r0 = s.r0 := rfl
@[simp] theorem setAddr_r2_r1 (s : State) (v : Word) :
    (s.setAddr .r2 v).r1 = s.r1 := rfl
@[simp] theorem setAddr_r2_r2 (s : State) (v : Word) :
    (s.setAddr .r2 v).r2 = v := rfl
@[simp] theorem setAddr_r2_r3 (s : State) (v : Word) :
    (s.setAddr .r2 v).r3 = s.r3 := rfl
@[simp] theorem setAddr_r3_r0 (s : State) (v : Word) :
    (s.setAddr .r3 v).r0 = s.r0 := rfl
@[simp] theorem setAddr_r3_r1 (s : State) (v : Word) :
    (s.setAddr .r3 v).r1 = s.r1 := rfl
@[simp] theorem setAddr_r3_r2 (s : State) (v : Word) :
    (s.setAddr .r3 v).r2 = s.r2 := rfl
@[simp] theorem setAddr_r3_r3 (s : State) (v : Word) :
    (s.setAddr .r3 v).r3 = v := rfl
@[simp] theorem setAddr_data (s : State) (r : AddrReg) (v : Word) (q : DataReg) :
    (s.setAddr r v).data q = s.data q := by cases q <;> cases r <;> rfl
@[simp] theorem setAddr_acc (s : State) (r : AddrReg) (v : Word) (q : Acc) :
    (s.setAddr r v).acc q = s.acc q := by cases q <;> cases r <;> rfl
@[simp] theorem setAddr_offset (s : State) (r : AddrReg) (v : Word) (q : AddrReg) :
    (s.setAddr r v).offset q = s.offset q := by cases q <;> cases r <;> rfl

/-! ## `setOffset` -/

@[simp] theorem setOffset_x0 (s : State) (r : AddrReg) (v : Word) :
    (s.setOffset r v).x0 = s.x0 := by cases r <;> rfl
@[simp] theorem setOffset_x1 (s : State) (r : AddrReg) (v : Word) :
    (s.setOffset r v).x1 = s.x1 := by cases r <;> rfl
@[simp] theorem setOffset_y0 (s : State) (r : AddrReg) (v : Word) :
    (s.setOffset r v).y0 = s.y0 := by cases r <;> rfl
@[simp] theorem setOffset_y1 (s : State) (r : AddrReg) (v : Word) :
    (s.setOffset r v).y1 = s.y1 := by cases r <;> rfl
@[simp] theorem setOffset_a (s : State) (r : AddrReg) (v : Word) :
    (s.setOffset r v).a = s.a := by cases r <;> rfl
@[simp] theorem setOffset_b (s : State) (r : AddrReg) (v : Word) :
    (s.setOffset r v).b = s.b := by cases r <;> rfl
@[simp] theorem setOffset_r0 (s : State) (r : AddrReg) (v : Word) :
    (s.setOffset r v).r0 = s.r0 := by cases r <;> rfl
@[simp] theorem setOffset_r1 (s : State) (r : AddrReg) (v : Word) :
    (s.setOffset r v).r1 = s.r1 := by cases r <;> rfl
@[simp] theorem setOffset_r2 (s : State) (r : AddrReg) (v : Word) :
    (s.setOffset r v).r2 = s.r2 := by cases r <;> rfl
@[simp] theorem setOffset_r3 (s : State) (r : AddrReg) (v : Word) :
    (s.setOffset r v).r3 = s.r3 := by cases r <;> rfl
@[simp] theorem setOffset_sr (s : State) (r : AddrReg) (v : Word) :
    (s.setOffset r v).sr = s.sr := by cases r <;> rfl
@[simp] theorem setOffset_lc (s : State) (r : AddrReg) (v : Word) :
    (s.setOffset r v).lc = s.lc := by cases r <;> rfl
@[simp] theorem setOffset_la (s : State) (r : AddrReg) (v : Word) :
    (s.setOffset r v).la = s.la := by cases r <;> rfl
@[simp] theorem setOffset_pc (s : State) (r : AddrReg) (v : Word) :
    (s.setOffset r v).pc = s.pc := by cases r <;> rfl
@[simp] theorem setOffset_ls (s : State) (r : AddrReg) (v : Word) :
    (s.setOffset r v).ls = s.ls := by cases r <;> rfl
@[simp] theorem setOffset_lsp (s : State) (r : AddrReg) (v : Word) :
    (s.setOffset r v).lsp = s.lsp := by cases r <;> rfl
@[simp] theorem setOffset_xmem (s : State) (r : AddrReg) (v : Word) :
    (s.setOffset r v).xmem = s.xmem := by cases r <;> rfl
@[simp] theorem setOffset_pmem (s : State) (r : AddrReg) (v : Word) :
    (s.setOffset r v).pmem = s.pmem := by cases r <;> rfl
/-- The group the update writes, by name: the named register alone. -/
theorem setOffset_offset (s : State) (r r' : AddrReg) (v : Word) :
    (s.setOffset r v).offset r' = if r' = r then v else s.offset r' := by
  cases r <;> cases r' <;> rfl
@[simp] theorem setOffset_offset_self (s : State) (r : AddrReg) (v : Word) :
    (s.setOffset r v).offset r = v := by cases r <;> rfl
theorem setOffset_offset_ne (s : State) (r r' : AddrReg) (v : Word) (h : r' ≠ r) :
    (s.setOffset r v).offset r' = s.offset r' := by simp [setOffset_offset, h]
@[simp] theorem setOffset_r0_n0 (s : State) (v : Word) :
    (s.setOffset .r0 v).n0 = v := rfl
@[simp] theorem setOffset_r0_n1 (s : State) (v : Word) :
    (s.setOffset .r0 v).n1 = s.n1 := rfl
@[simp] theorem setOffset_r0_n2 (s : State) (v : Word) :
    (s.setOffset .r0 v).n2 = s.n2 := rfl
@[simp] theorem setOffset_r0_n3 (s : State) (v : Word) :
    (s.setOffset .r0 v).n3 = s.n3 := rfl
@[simp] theorem setOffset_r1_n0 (s : State) (v : Word) :
    (s.setOffset .r1 v).n0 = s.n0 := rfl
@[simp] theorem setOffset_r1_n1 (s : State) (v : Word) :
    (s.setOffset .r1 v).n1 = v := rfl
@[simp] theorem setOffset_r1_n2 (s : State) (v : Word) :
    (s.setOffset .r1 v).n2 = s.n2 := rfl
@[simp] theorem setOffset_r1_n3 (s : State) (v : Word) :
    (s.setOffset .r1 v).n3 = s.n3 := rfl
@[simp] theorem setOffset_r2_n0 (s : State) (v : Word) :
    (s.setOffset .r2 v).n0 = s.n0 := rfl
@[simp] theorem setOffset_r2_n1 (s : State) (v : Word) :
    (s.setOffset .r2 v).n1 = s.n1 := rfl
@[simp] theorem setOffset_r2_n2 (s : State) (v : Word) :
    (s.setOffset .r2 v).n2 = v := rfl
@[simp] theorem setOffset_r2_n3 (s : State) (v : Word) :
    (s.setOffset .r2 v).n3 = s.n3 := rfl
@[simp] theorem setOffset_r3_n0 (s : State) (v : Word) :
    (s.setOffset .r3 v).n0 = s.n0 := rfl
@[simp] theorem setOffset_r3_n1 (s : State) (v : Word) :
    (s.setOffset .r3 v).n1 = s.n1 := rfl
@[simp] theorem setOffset_r3_n2 (s : State) (v : Word) :
    (s.setOffset .r3 v).n2 = s.n2 := rfl
@[simp] theorem setOffset_r3_n3 (s : State) (v : Word) :
    (s.setOffset .r3 v).n3 = v := rfl
@[simp] theorem setOffset_data (s : State) (r : AddrReg) (v : Word) (q : DataReg) :
    (s.setOffset r v).data q = s.data q := by cases q <;> cases r <;> rfl
@[simp] theorem setOffset_acc (s : State) (r : AddrReg) (v : Word) (q : Acc) :
    (s.setOffset r v).acc q = s.acc q := by cases q <;> cases r <;> rfl
@[simp] theorem setOffset_addr (s : State) (r : AddrReg) (v : Word) (q : AddrReg) :
    (s.setOffset r v).addr q = s.addr q := by cases q <;> cases r <;> rfl

/-! ## `setSr` -/

@[simp] theorem setSr_x0 (s : State) (f : Status) :
    (s.setSr f).x0 = s.x0 := rfl
@[simp] theorem setSr_x1 (s : State) (f : Status) :
    (s.setSr f).x1 = s.x1 := rfl
@[simp] theorem setSr_y0 (s : State) (f : Status) :
    (s.setSr f).y0 = s.y0 := rfl
@[simp] theorem setSr_y1 (s : State) (f : Status) :
    (s.setSr f).y1 = s.y1 := rfl
@[simp] theorem setSr_a (s : State) (f : Status) :
    (s.setSr f).a = s.a := rfl
@[simp] theorem setSr_b (s : State) (f : Status) :
    (s.setSr f).b = s.b := rfl
@[simp] theorem setSr_r0 (s : State) (f : Status) :
    (s.setSr f).r0 = s.r0 := rfl
@[simp] theorem setSr_r1 (s : State) (f : Status) :
    (s.setSr f).r1 = s.r1 := rfl
@[simp] theorem setSr_r2 (s : State) (f : Status) :
    (s.setSr f).r2 = s.r2 := rfl
@[simp] theorem setSr_r3 (s : State) (f : Status) :
    (s.setSr f).r3 = s.r3 := rfl
@[simp] theorem setSr_n0 (s : State) (f : Status) :
    (s.setSr f).n0 = s.n0 := rfl
@[simp] theorem setSr_n1 (s : State) (f : Status) :
    (s.setSr f).n1 = s.n1 := rfl
@[simp] theorem setSr_n2 (s : State) (f : Status) :
    (s.setSr f).n2 = s.n2 := rfl
@[simp] theorem setSr_n3 (s : State) (f : Status) :
    (s.setSr f).n3 = s.n3 := rfl
@[simp] theorem setSr_sr (s : State) (f : Status) :
    (s.setSr f).sr = f := rfl
@[simp] theorem setSr_lc (s : State) (f : Status) :
    (s.setSr f).lc = s.lc := rfl
@[simp] theorem setSr_la (s : State) (f : Status) :
    (s.setSr f).la = s.la := rfl
@[simp] theorem setSr_pc (s : State) (f : Status) :
    (s.setSr f).pc = s.pc := rfl
@[simp] theorem setSr_ls (s : State) (f : Status) :
    (s.setSr f).ls = s.ls := rfl
@[simp] theorem setSr_lsp (s : State) (f : Status) :
    (s.setSr f).lsp = s.lsp := rfl
@[simp] theorem setSr_xmem (s : State) (f : Status) :
    (s.setSr f).xmem = s.xmem := rfl
@[simp] theorem setSr_pmem (s : State) (f : Status) :
    (s.setSr f).pmem = s.pmem := rfl
@[simp] theorem setSr_data (s : State) (f : Status) (q : DataReg) :
    (s.setSr f).data q = s.data q := by cases q <;> rfl
@[simp] theorem setSr_acc (s : State) (f : Status) (q : Acc) :
    (s.setSr f).acc q = s.acc q := by cases q <;> rfl
@[simp] theorem setSr_addr (s : State) (f : Status) (q : AddrReg) :
    (s.setSr f).addr q = s.addr q := by cases q <;> rfl
@[simp] theorem setSr_offset (s : State) (f : Status) (q : AddrReg) :
    (s.setSr f).offset q = s.offset q := by cases q <;> rfl

/-! ## `setLc` -/

@[simp] theorem setLc_x0 (s : State) (v : Word) :
    (s.setLc v).x0 = s.x0 := rfl
@[simp] theorem setLc_x1 (s : State) (v : Word) :
    (s.setLc v).x1 = s.x1 := rfl
@[simp] theorem setLc_y0 (s : State) (v : Word) :
    (s.setLc v).y0 = s.y0 := rfl
@[simp] theorem setLc_y1 (s : State) (v : Word) :
    (s.setLc v).y1 = s.y1 := rfl
@[simp] theorem setLc_a (s : State) (v : Word) :
    (s.setLc v).a = s.a := rfl
@[simp] theorem setLc_b (s : State) (v : Word) :
    (s.setLc v).b = s.b := rfl
@[simp] theorem setLc_r0 (s : State) (v : Word) :
    (s.setLc v).r0 = s.r0 := rfl
@[simp] theorem setLc_r1 (s : State) (v : Word) :
    (s.setLc v).r1 = s.r1 := rfl
@[simp] theorem setLc_r2 (s : State) (v : Word) :
    (s.setLc v).r2 = s.r2 := rfl
@[simp] theorem setLc_r3 (s : State) (v : Word) :
    (s.setLc v).r3 = s.r3 := rfl
@[simp] theorem setLc_n0 (s : State) (v : Word) :
    (s.setLc v).n0 = s.n0 := rfl
@[simp] theorem setLc_n1 (s : State) (v : Word) :
    (s.setLc v).n1 = s.n1 := rfl
@[simp] theorem setLc_n2 (s : State) (v : Word) :
    (s.setLc v).n2 = s.n2 := rfl
@[simp] theorem setLc_n3 (s : State) (v : Word) :
    (s.setLc v).n3 = s.n3 := rfl
@[simp] theorem setLc_sr (s : State) (v : Word) :
    (s.setLc v).sr = s.sr := rfl
@[simp] theorem setLc_lc (s : State) (v : Word) :
    (s.setLc v).lc = v := rfl
@[simp] theorem setLc_la (s : State) (v : Word) :
    (s.setLc v).la = s.la := rfl
@[simp] theorem setLc_pc (s : State) (v : Word) :
    (s.setLc v).pc = s.pc := rfl
@[simp] theorem setLc_ls (s : State) (v : Word) :
    (s.setLc v).ls = s.ls := rfl
@[simp] theorem setLc_lsp (s : State) (v : Word) :
    (s.setLc v).lsp = s.lsp := rfl
@[simp] theorem setLc_xmem (s : State) (v : Word) :
    (s.setLc v).xmem = s.xmem := rfl
@[simp] theorem setLc_pmem (s : State) (v : Word) :
    (s.setLc v).pmem = s.pmem := rfl
@[simp] theorem setLc_data (s : State) (v : Word) (q : DataReg) :
    (s.setLc v).data q = s.data q := by cases q <;> rfl
@[simp] theorem setLc_acc (s : State) (v : Word) (q : Acc) :
    (s.setLc v).acc q = s.acc q := by cases q <;> rfl
@[simp] theorem setLc_addr (s : State) (v : Word) (q : AddrReg) :
    (s.setLc v).addr q = s.addr q := by cases q <;> rfl
@[simp] theorem setLc_offset (s : State) (v : Word) (q : AddrReg) :
    (s.setLc v).offset q = s.offset q := by cases q <;> rfl

/-! ## `setLa` -/

@[simp] theorem setLa_x0 (s : State) (v : Word) :
    (s.setLa v).x0 = s.x0 := rfl
@[simp] theorem setLa_x1 (s : State) (v : Word) :
    (s.setLa v).x1 = s.x1 := rfl
@[simp] theorem setLa_y0 (s : State) (v : Word) :
    (s.setLa v).y0 = s.y0 := rfl
@[simp] theorem setLa_y1 (s : State) (v : Word) :
    (s.setLa v).y1 = s.y1 := rfl
@[simp] theorem setLa_a (s : State) (v : Word) :
    (s.setLa v).a = s.a := rfl
@[simp] theorem setLa_b (s : State) (v : Word) :
    (s.setLa v).b = s.b := rfl
@[simp] theorem setLa_r0 (s : State) (v : Word) :
    (s.setLa v).r0 = s.r0 := rfl
@[simp] theorem setLa_r1 (s : State) (v : Word) :
    (s.setLa v).r1 = s.r1 := rfl
@[simp] theorem setLa_r2 (s : State) (v : Word) :
    (s.setLa v).r2 = s.r2 := rfl
@[simp] theorem setLa_r3 (s : State) (v : Word) :
    (s.setLa v).r3 = s.r3 := rfl
@[simp] theorem setLa_n0 (s : State) (v : Word) :
    (s.setLa v).n0 = s.n0 := rfl
@[simp] theorem setLa_n1 (s : State) (v : Word) :
    (s.setLa v).n1 = s.n1 := rfl
@[simp] theorem setLa_n2 (s : State) (v : Word) :
    (s.setLa v).n2 = s.n2 := rfl
@[simp] theorem setLa_n3 (s : State) (v : Word) :
    (s.setLa v).n3 = s.n3 := rfl
@[simp] theorem setLa_sr (s : State) (v : Word) :
    (s.setLa v).sr = s.sr := rfl
@[simp] theorem setLa_lc (s : State) (v : Word) :
    (s.setLa v).lc = s.lc := rfl
@[simp] theorem setLa_la (s : State) (v : Word) :
    (s.setLa v).la = v := rfl
@[simp] theorem setLa_pc (s : State) (v : Word) :
    (s.setLa v).pc = s.pc := rfl
@[simp] theorem setLa_ls (s : State) (v : Word) :
    (s.setLa v).ls = s.ls := rfl
@[simp] theorem setLa_lsp (s : State) (v : Word) :
    (s.setLa v).lsp = s.lsp := rfl
@[simp] theorem setLa_xmem (s : State) (v : Word) :
    (s.setLa v).xmem = s.xmem := rfl
@[simp] theorem setLa_pmem (s : State) (v : Word) :
    (s.setLa v).pmem = s.pmem := rfl
@[simp] theorem setLa_data (s : State) (v : Word) (q : DataReg) :
    (s.setLa v).data q = s.data q := by cases q <;> rfl
@[simp] theorem setLa_acc (s : State) (v : Word) (q : Acc) :
    (s.setLa v).acc q = s.acc q := by cases q <;> rfl
@[simp] theorem setLa_addr (s : State) (v : Word) (q : AddrReg) :
    (s.setLa v).addr q = s.addr q := by cases q <;> rfl
@[simp] theorem setLa_offset (s : State) (v : Word) (q : AddrReg) :
    (s.setLa v).offset q = s.offset q := by cases q <;> rfl

/-! ## `setPc` -/

@[simp] theorem setPc_x0 (s : State) (v : Word) :
    (s.setPc v).x0 = s.x0 := rfl
@[simp] theorem setPc_x1 (s : State) (v : Word) :
    (s.setPc v).x1 = s.x1 := rfl
@[simp] theorem setPc_y0 (s : State) (v : Word) :
    (s.setPc v).y0 = s.y0 := rfl
@[simp] theorem setPc_y1 (s : State) (v : Word) :
    (s.setPc v).y1 = s.y1 := rfl
@[simp] theorem setPc_a (s : State) (v : Word) :
    (s.setPc v).a = s.a := rfl
@[simp] theorem setPc_b (s : State) (v : Word) :
    (s.setPc v).b = s.b := rfl
@[simp] theorem setPc_r0 (s : State) (v : Word) :
    (s.setPc v).r0 = s.r0 := rfl
@[simp] theorem setPc_r1 (s : State) (v : Word) :
    (s.setPc v).r1 = s.r1 := rfl
@[simp] theorem setPc_r2 (s : State) (v : Word) :
    (s.setPc v).r2 = s.r2 := rfl
@[simp] theorem setPc_r3 (s : State) (v : Word) :
    (s.setPc v).r3 = s.r3 := rfl
@[simp] theorem setPc_n0 (s : State) (v : Word) :
    (s.setPc v).n0 = s.n0 := rfl
@[simp] theorem setPc_n1 (s : State) (v : Word) :
    (s.setPc v).n1 = s.n1 := rfl
@[simp] theorem setPc_n2 (s : State) (v : Word) :
    (s.setPc v).n2 = s.n2 := rfl
@[simp] theorem setPc_n3 (s : State) (v : Word) :
    (s.setPc v).n3 = s.n3 := rfl
@[simp] theorem setPc_sr (s : State) (v : Word) :
    (s.setPc v).sr = s.sr := rfl
@[simp] theorem setPc_lc (s : State) (v : Word) :
    (s.setPc v).lc = s.lc := rfl
@[simp] theorem setPc_la (s : State) (v : Word) :
    (s.setPc v).la = s.la := rfl
@[simp] theorem setPc_pc (s : State) (v : Word) :
    (s.setPc v).pc = v := rfl
@[simp] theorem setPc_ls (s : State) (v : Word) :
    (s.setPc v).ls = s.ls := rfl
@[simp] theorem setPc_lsp (s : State) (v : Word) :
    (s.setPc v).lsp = s.lsp := rfl
@[simp] theorem setPc_xmem (s : State) (v : Word) :
    (s.setPc v).xmem = s.xmem := rfl
@[simp] theorem setPc_pmem (s : State) (v : Word) :
    (s.setPc v).pmem = s.pmem := rfl
@[simp] theorem setPc_data (s : State) (v : Word) (q : DataReg) :
    (s.setPc v).data q = s.data q := by cases q <;> rfl
@[simp] theorem setPc_acc (s : State) (v : Word) (q : Acc) :
    (s.setPc v).acc q = s.acc q := by cases q <;> rfl
@[simp] theorem setPc_addr (s : State) (v : Word) (q : AddrReg) :
    (s.setPc v).addr q = s.addr q := by cases q <;> rfl
@[simp] theorem setPc_offset (s : State) (v : Word) (q : AddrReg) :
    (s.setPc v).offset q = s.offset q := by cases q <;> rfl

/-! ## `setLoop` -/

@[simp] theorem setLoop_x0 (s : State) (ls : LoopStack) (lsp : Nat) :
    (s.setLoop ls lsp).x0 = s.x0 := rfl
@[simp] theorem setLoop_x1 (s : State) (ls : LoopStack) (lsp : Nat) :
    (s.setLoop ls lsp).x1 = s.x1 := rfl
@[simp] theorem setLoop_y0 (s : State) (ls : LoopStack) (lsp : Nat) :
    (s.setLoop ls lsp).y0 = s.y0 := rfl
@[simp] theorem setLoop_y1 (s : State) (ls : LoopStack) (lsp : Nat) :
    (s.setLoop ls lsp).y1 = s.y1 := rfl
@[simp] theorem setLoop_a (s : State) (ls : LoopStack) (lsp : Nat) :
    (s.setLoop ls lsp).a = s.a := rfl
@[simp] theorem setLoop_b (s : State) (ls : LoopStack) (lsp : Nat) :
    (s.setLoop ls lsp).b = s.b := rfl
@[simp] theorem setLoop_r0 (s : State) (ls : LoopStack) (lsp : Nat) :
    (s.setLoop ls lsp).r0 = s.r0 := rfl
@[simp] theorem setLoop_r1 (s : State) (ls : LoopStack) (lsp : Nat) :
    (s.setLoop ls lsp).r1 = s.r1 := rfl
@[simp] theorem setLoop_r2 (s : State) (ls : LoopStack) (lsp : Nat) :
    (s.setLoop ls lsp).r2 = s.r2 := rfl
@[simp] theorem setLoop_r3 (s : State) (ls : LoopStack) (lsp : Nat) :
    (s.setLoop ls lsp).r3 = s.r3 := rfl
@[simp] theorem setLoop_n0 (s : State) (ls : LoopStack) (lsp : Nat) :
    (s.setLoop ls lsp).n0 = s.n0 := rfl
@[simp] theorem setLoop_n1 (s : State) (ls : LoopStack) (lsp : Nat) :
    (s.setLoop ls lsp).n1 = s.n1 := rfl
@[simp] theorem setLoop_n2 (s : State) (ls : LoopStack) (lsp : Nat) :
    (s.setLoop ls lsp).n2 = s.n2 := rfl
@[simp] theorem setLoop_n3 (s : State) (ls : LoopStack) (lsp : Nat) :
    (s.setLoop ls lsp).n3 = s.n3 := rfl
@[simp] theorem setLoop_sr (s : State) (ls : LoopStack) (lsp : Nat) :
    (s.setLoop ls lsp).sr = s.sr := rfl
@[simp] theorem setLoop_lc (s : State) (ls : LoopStack) (lsp : Nat) :
    (s.setLoop ls lsp).lc = s.lc := rfl
@[simp] theorem setLoop_la (s : State) (ls : LoopStack) (lsp : Nat) :
    (s.setLoop ls lsp).la = s.la := rfl
@[simp] theorem setLoop_pc (s : State) (ls : LoopStack) (lsp : Nat) :
    (s.setLoop ls lsp).pc = s.pc := rfl
@[simp] theorem setLoop_ls (s : State) (ls : LoopStack) (lsp : Nat) :
    (s.setLoop ls lsp).ls = ls := rfl
@[simp] theorem setLoop_lsp (s : State) (ls : LoopStack) (lsp : Nat) :
    (s.setLoop ls lsp).lsp = lsp := rfl
@[simp] theorem setLoop_xmem (s : State) (ls : LoopStack) (lsp : Nat) :
    (s.setLoop ls lsp).xmem = s.xmem := rfl
@[simp] theorem setLoop_pmem (s : State) (ls : LoopStack) (lsp : Nat) :
    (s.setLoop ls lsp).pmem = s.pmem := rfl
@[simp] theorem setLoop_data (s : State) (ls : LoopStack) (lsp : Nat) (q : DataReg) :
    (s.setLoop ls lsp).data q = s.data q := by cases q <;> rfl
@[simp] theorem setLoop_acc (s : State) (ls : LoopStack) (lsp : Nat) (q : Acc) :
    (s.setLoop ls lsp).acc q = s.acc q := by cases q <;> rfl
@[simp] theorem setLoop_addr (s : State) (ls : LoopStack) (lsp : Nat) (q : AddrReg) :
    (s.setLoop ls lsp).addr q = s.addr q := by cases q <;> rfl
@[simp] theorem setLoop_offset (s : State) (ls : LoopStack) (lsp : Nat) (q : AddrReg) :
    (s.setLoop ls lsp).offset q = s.offset q := by cases q <;> rfl

/-! ## `setSe` -/

@[simp] theorem setSe_x0 (s : State) :
    (s.setSe).x0 = s.x0 := rfl
@[simp] theorem setSe_x1 (s : State) :
    (s.setSe).x1 = s.x1 := rfl
@[simp] theorem setSe_y0 (s : State) :
    (s.setSe).y0 = s.y0 := rfl
@[simp] theorem setSe_y1 (s : State) :
    (s.setSe).y1 = s.y1 := rfl
@[simp] theorem setSe_a (s : State) :
    (s.setSe).a = s.a := rfl
@[simp] theorem setSe_b (s : State) :
    (s.setSe).b = s.b := rfl
@[simp] theorem setSe_r0 (s : State) :
    (s.setSe).r0 = s.r0 := rfl
@[simp] theorem setSe_r1 (s : State) :
    (s.setSe).r1 = s.r1 := rfl
@[simp] theorem setSe_r2 (s : State) :
    (s.setSe).r2 = s.r2 := rfl
@[simp] theorem setSe_r3 (s : State) :
    (s.setSe).r3 = s.r3 := rfl
@[simp] theorem setSe_n0 (s : State) :
    (s.setSe).n0 = s.n0 := rfl
@[simp] theorem setSe_n1 (s : State) :
    (s.setSe).n1 = s.n1 := rfl
@[simp] theorem setSe_n2 (s : State) :
    (s.setSe).n2 = s.n2 := rfl
@[simp] theorem setSe_n3 (s : State) :
    (s.setSe).n3 = s.n3 := rfl
@[simp] theorem setSe_sr (s : State) :
    (s.setSe).sr = { s.sr with se := true } := rfl
@[simp] theorem setSe_lc (s : State) :
    (s.setSe).lc = s.lc := rfl
@[simp] theorem setSe_la (s : State) :
    (s.setSe).la = s.la := rfl
@[simp] theorem setSe_pc (s : State) :
    (s.setSe).pc = s.pc := rfl
@[simp] theorem setSe_ls (s : State) :
    (s.setSe).ls = s.ls := rfl
@[simp] theorem setSe_lsp (s : State) :
    (s.setSe).lsp = s.lsp := rfl
@[simp] theorem setSe_xmem (s : State) :
    (s.setSe).xmem = s.xmem := rfl
@[simp] theorem setSe_pmem (s : State) :
    (s.setSe).pmem = s.pmem := rfl
@[simp] theorem setSe_data (s : State) (q : DataReg) :
    (s.setSe).data q = s.data q := by cases q <;> rfl
@[simp] theorem setSe_acc (s : State) (q : Acc) :
    (s.setSe).acc q = s.acc q := by cases q <;> rfl
@[simp] theorem setSe_addr (s : State) (q : AddrReg) :
    (s.setSe).addr q = s.addr q := by cases q <;> rfl
@[simp] theorem setSe_offset (s : State) (q : AddrReg) :
    (s.setSe).offset q = s.offset q := by cases q <;> rfl

/-! ## `memWrite` -/

@[simp] theorem memWrite_x0 (s : State) (addr v : Word) :
    (s.memWrite addr v).x0 = s.x0 := rfl
@[simp] theorem memWrite_x1 (s : State) (addr v : Word) :
    (s.memWrite addr v).x1 = s.x1 := rfl
@[simp] theorem memWrite_y0 (s : State) (addr v : Word) :
    (s.memWrite addr v).y0 = s.y0 := rfl
@[simp] theorem memWrite_y1 (s : State) (addr v : Word) :
    (s.memWrite addr v).y1 = s.y1 := rfl
@[simp] theorem memWrite_a (s : State) (addr v : Word) :
    (s.memWrite addr v).a = s.a := rfl
@[simp] theorem memWrite_b (s : State) (addr v : Word) :
    (s.memWrite addr v).b = s.b := rfl
@[simp] theorem memWrite_r0 (s : State) (addr v : Word) :
    (s.memWrite addr v).r0 = s.r0 := rfl
@[simp] theorem memWrite_r1 (s : State) (addr v : Word) :
    (s.memWrite addr v).r1 = s.r1 := rfl
@[simp] theorem memWrite_r2 (s : State) (addr v : Word) :
    (s.memWrite addr v).r2 = s.r2 := rfl
@[simp] theorem memWrite_r3 (s : State) (addr v : Word) :
    (s.memWrite addr v).r3 = s.r3 := rfl
@[simp] theorem memWrite_n0 (s : State) (addr v : Word) :
    (s.memWrite addr v).n0 = s.n0 := rfl
@[simp] theorem memWrite_n1 (s : State) (addr v : Word) :
    (s.memWrite addr v).n1 = s.n1 := rfl
@[simp] theorem memWrite_n2 (s : State) (addr v : Word) :
    (s.memWrite addr v).n2 = s.n2 := rfl
@[simp] theorem memWrite_n3 (s : State) (addr v : Word) :
    (s.memWrite addr v).n3 = s.n3 := rfl
@[simp] theorem memWrite_sr (s : State) (addr v : Word) :
    (s.memWrite addr v).sr = s.sr := rfl
@[simp] theorem memWrite_lc (s : State) (addr v : Word) :
    (s.memWrite addr v).lc = s.lc := rfl
@[simp] theorem memWrite_la (s : State) (addr v : Word) :
    (s.memWrite addr v).la = s.la := rfl
@[simp] theorem memWrite_pc (s : State) (addr v : Word) :
    (s.memWrite addr v).pc = s.pc := rfl
@[simp] theorem memWrite_ls (s : State) (addr v : Word) :
    (s.memWrite addr v).ls = s.ls := rfl
@[simp] theorem memWrite_lsp (s : State) (addr v : Word) :
    (s.memWrite addr v).lsp = s.lsp := rfl
@[simp] theorem memWrite_xmem (s : State) (addr v : Word) :
    (s.memWrite addr v).xmem = s.xmem.writeWord addr v := rfl
@[simp] theorem memWrite_pmem (s : State) (addr v : Word) :
    (s.memWrite addr v).pmem = s.pmem := rfl
@[simp] theorem memWrite_data (s : State) (addr v : Word) (q : DataReg) :
    (s.memWrite addr v).data q = s.data q := by cases q <;> rfl
@[simp] theorem memWrite_acc (s : State) (addr v : Word) (q : Acc) :
    (s.memWrite addr v).acc q = s.acc q := by cases q <;> rfl
@[simp] theorem memWrite_addr (s : State) (addr v : Word) (q : AddrReg) :
    (s.memWrite addr v).addr q = s.addr q := by cases q <;> rfl
@[simp] theorem memWrite_offset (s : State) (addr v : Word) (q : AddrReg) :
    (s.memWrite addr v).offset q = s.offset q := by cases q <;> rfl

/-! ## `loadAtPc` -/

@[simp] theorem loadAtPc_x0 (s : State) (word0 word1 : Word) :
    (s.loadAtPc word0 word1).x0 = s.x0 := rfl
@[simp] theorem loadAtPc_x1 (s : State) (word0 word1 : Word) :
    (s.loadAtPc word0 word1).x1 = s.x1 := rfl
@[simp] theorem loadAtPc_y0 (s : State) (word0 word1 : Word) :
    (s.loadAtPc word0 word1).y0 = s.y0 := rfl
@[simp] theorem loadAtPc_y1 (s : State) (word0 word1 : Word) :
    (s.loadAtPc word0 word1).y1 = s.y1 := rfl
@[simp] theorem loadAtPc_a (s : State) (word0 word1 : Word) :
    (s.loadAtPc word0 word1).a = s.a := rfl
@[simp] theorem loadAtPc_b (s : State) (word0 word1 : Word) :
    (s.loadAtPc word0 word1).b = s.b := rfl
@[simp] theorem loadAtPc_r0 (s : State) (word0 word1 : Word) :
    (s.loadAtPc word0 word1).r0 = s.r0 := rfl
@[simp] theorem loadAtPc_r1 (s : State) (word0 word1 : Word) :
    (s.loadAtPc word0 word1).r1 = s.r1 := rfl
@[simp] theorem loadAtPc_r2 (s : State) (word0 word1 : Word) :
    (s.loadAtPc word0 word1).r2 = s.r2 := rfl
@[simp] theorem loadAtPc_r3 (s : State) (word0 word1 : Word) :
    (s.loadAtPc word0 word1).r3 = s.r3 := rfl
@[simp] theorem loadAtPc_n0 (s : State) (word0 word1 : Word) :
    (s.loadAtPc word0 word1).n0 = s.n0 := rfl
@[simp] theorem loadAtPc_n1 (s : State) (word0 word1 : Word) :
    (s.loadAtPc word0 word1).n1 = s.n1 := rfl
@[simp] theorem loadAtPc_n2 (s : State) (word0 word1 : Word) :
    (s.loadAtPc word0 word1).n2 = s.n2 := rfl
@[simp] theorem loadAtPc_n3 (s : State) (word0 word1 : Word) :
    (s.loadAtPc word0 word1).n3 = s.n3 := rfl
@[simp] theorem loadAtPc_sr (s : State) (word0 word1 : Word) :
    (s.loadAtPc word0 word1).sr = s.sr := rfl
@[simp] theorem loadAtPc_lc (s : State) (word0 word1 : Word) :
    (s.loadAtPc word0 word1).lc = s.lc := rfl
@[simp] theorem loadAtPc_la (s : State) (word0 word1 : Word) :
    (s.loadAtPc word0 word1).la = s.la := rfl
@[simp] theorem loadAtPc_pc (s : State) (word0 word1 : Word) :
    (s.loadAtPc word0 word1).pc = s.pc := rfl
@[simp] theorem loadAtPc_ls (s : State) (word0 word1 : Word) :
    (s.loadAtPc word0 word1).ls = s.ls := rfl
@[simp] theorem loadAtPc_lsp (s : State) (word0 word1 : Word) :
    (s.loadAtPc word0 word1).lsp = s.lsp := rfl
@[simp] theorem loadAtPc_xmem (s : State) (word0 word1 : Word) :
    (s.loadAtPc word0 word1).xmem = s.xmem := rfl
@[simp] theorem loadAtPc_pmem (s : State) (word0 word1 : Word) :
    (s.loadAtPc word0 word1).pmem = (s.pmem.writeWord s.pc word0).writeWord (s.pc + 1) word1 := rfl
@[simp] theorem loadAtPc_data (s : State) (word0 word1 : Word) (q : DataReg) :
    (s.loadAtPc word0 word1).data q = s.data q := by cases q <;> rfl
@[simp] theorem loadAtPc_acc (s : State) (word0 word1 : Word) (q : Acc) :
    (s.loadAtPc word0 word1).acc q = s.acc q := by cases q <;> rfl
@[simp] theorem loadAtPc_addr (s : State) (word0 word1 : Word) (q : AddrReg) :
    (s.loadAtPc word0 word1).addr q = s.addr q := by cases q <;> rfl
@[simp] theorem loadAtPc_offset (s : State) (word0 word1 : Word) (q : AddrReg) :
    (s.loadAtPc word0 word1).offset q = s.offset q := by cases q <;> rfl

/-! ## Group accessors at a name -/

@[simp] theorem data_x0 (s : State) : s.data .x0 = s.x0 := rfl
@[simp] theorem data_x1 (s : State) : s.data .x1 = s.x1 := rfl
@[simp] theorem data_y0 (s : State) : s.data .y0 = s.y0 := rfl
@[simp] theorem data_y1 (s : State) : s.data .y1 = s.y1 := rfl
@[simp] theorem acc_a (s : State) : s.acc .a = s.a := rfl
@[simp] theorem acc_b (s : State) : s.acc .b = s.b := rfl
@[simp] theorem addr_r0 (s : State) : s.addr .r0 = s.r0 := rfl
@[simp] theorem addr_r1 (s : State) : s.addr .r1 = s.r1 := rfl
@[simp] theorem addr_r2 (s : State) : s.addr .r2 = s.r2 := rfl
@[simp] theorem addr_r3 (s : State) : s.addr .r3 = s.r3 := rfl
@[simp] theorem offset_r0 (s : State) : s.offset .r0 = s.n0 := rfl
@[simp] theorem offset_r1 (s : State) : s.offset .r1 = s.n1 := rfl
@[simp] theorem offset_r2 (s : State) : s.offset .r2 = s.n2 := rfl
@[simp] theorem offset_r3 (s : State) : s.offset .r3 = s.n3 := rfl

/-! ## `resetInPlace` -/

@[simp] theorem resetInPlace_xmem (s : State) : s.resetInPlace.xmem = s.xmem := rfl
@[simp] theorem resetInPlace_pmem (s : State) : s.resetInPlace.pmem = s.pmem := rfl
@[simp] theorem resetInPlace_lsp (s : State) : s.resetInPlace.lsp = 0 := rfl

end Sys2Proof.Machine
end

