-- ==== Sys2Proof/Laws/Ops.lean ====
section
/-! SUPPORT. One lemma per shared operation: everything it can do, for later proofs to cite. -/

namespace Sys2Proof.Machine

/-! ## `setReg16` and what it leaves alone -/

@[simp] theorem setReg16_pc (s : State) (r : Reg) (v : Word) : (s.setReg16 r v).pc = s.pc := by
  cases r <;> rfl

@[simp] theorem setReg16_ls (s : State) (r : Reg) (v : Word) : (s.setReg16 r v).ls = s.ls := by
  cases r <;> rfl

@[simp] theorem setReg16_lsp (s : State) (r : Reg) (v : Word) : (s.setReg16 r v).lsp = s.lsp := by
  cases r <;> rfl

@[simp] theorem setReg16_xmem (s : State) (r : Reg) (v : Word) : (s.setReg16 r v).xmem = s.xmem := by
  cases r <;> rfl

@[simp] theorem setReg16_pmem (s : State) (r : Reg) (v : Word) : (s.setReg16 r v).pmem = s.pmem := by
  cases r <;> rfl

theorem setReg16_sr (s : State) (r : Reg) (v : Word) :
    (s.setReg16 r v).sr = if r = .sr then Status.ofWord v else s.sr := by
  cases r <;> rfl

theorem setReg16_lc (s : State) (r : Reg) (v : Word) :
    (s.setReg16 r v).lc = if r = .lc then v else s.lc := by
  cases r <;> rfl

theorem setReg16_la (s : State) (r : Reg) (v : Word) :
    (s.setReg16 r v).la = if r = .la then v else s.la := by
  cases r <;> rfl

theorem setReg16_data (s : State) (r : Reg) (v : Word) (q : DataReg) :
    (s.setReg16 r v).data q = if r = dataName q then v else s.data q := by
  cases r <;> cases q <;> rfl

theorem setReg16_addr (s : State) (r : Reg) (v : Word) (q : AddrReg) :
    (s.setReg16 r v).addr q = if r = addrName q then v else s.addr q := by
  cases r <;> cases q <;> rfl

theorem setReg16_offset (s : State) (r : Reg) (v : Word) (q : AddrReg) :
    (s.setReg16 r v).offset q = if r = offsetName q then v else s.offset q := by
  cases r <;> cases q <;> rfl

/-- The accumulator `a` after a write through the register port. -/
theorem setReg16_a (s : State) (r : Reg) (v : Word) :
    (s.setReg16 r v).a =
      match r with
      | .a => ext40 v
      | .a0 => withLow s.a v
      | .a1 => withHigh s.a v
      | .a2 => withExt s.a (v.extractLsb' 0 8)
      | _ => s.a := by
  cases r <;> rfl

/-- The accumulator `b` after a write through the register port. -/
theorem setReg16_b (s : State) (r : Reg) (v : Word) :
    (s.setReg16 r v).b =
      match r with
      | .b => ext40 v
      | .b0 => withLow s.b v
      | .b1 => withHigh s.b v
      | .b2 => withExt s.b (v.extractLsb' 0 8)
      | _ => s.b := by
  cases r <;> rfl

/-! ## The loop stack -/

theorem LoopStack.get_set (ls : LoopStack) (i j : Nat) (e : LoopEntry) (hi : i < 8) (hj : j < 8) :
    (ls.set i e).get j = if j = i then e else ls.get j := by
  interval_cases i <;> interval_cases j <;> rfl

/-- Everything `push_loop` can do (rule R34). -/
theorem pushLoop_cases (s : State) (la lc : Word) :
    (s.lsp < 8 ∧ s.pushLoop la lc = s.setLoop (s.ls.set s.lsp ⟨la, lc⟩) (s.lsp + 1)) ∨
    (8 ≤ s.lsp ∧ s.pushLoop la lc = (s.setLoop (s.ls.set 7 ⟨la, lc⟩) s.lsp).setSe) := by
  by_cases h : s.lsp < 8
  · exact .inl ⟨h, by simp [State.pushLoop, Config.loopDepth, h]⟩
  · exact .inr ⟨by omega, by simp [State.pushLoop, Config.loopDepth, h]⟩

/-- Everything `pop_loop` can do (rule R35). -/
theorem popLoop_cases (s : State) :
    (s.lsp = 0 ∧ s.popLoop = s.setSe) ∨
    (0 < s.lsp ∧ s.popLoop = ((s.setLoop s.ls (s.lsp - 1)).setLa (s.ls.get (s.lsp - 1)).la).setLc
      (s.ls.get (s.lsp - 1)).lc) := by
  by_cases h : s.lsp = 0
  · exact .inl ⟨h, by simp [State.popLoop, h]⟩
  · exact .inr ⟨by omega, by simp [State.popLoop, h]⟩

/-! ## Writes -/

@[simp] theorem pushLoop_pc (s : State) (la lc : Word) : (s.pushLoop la lc).pc = s.pc := by
  rcases pushLoop_cases s la lc with ⟨_, h⟩ | ⟨_, h⟩ <;> simp [h]

@[simp] theorem pushLoop_pmem (s : State) (la lc : Word) : (s.pushLoop la lc).pmem = s.pmem := by
  rcases pushLoop_cases s la lc with ⟨_, h⟩ | ⟨_, h⟩ <;> simp [h]

@[simp] theorem pushLoop_xmem (s : State) (la lc : Word) : (s.pushLoop la lc).xmem = s.xmem := by
  rcases pushLoop_cases s la lc with ⟨_, h⟩ | ⟨_, h⟩ <;> simp [h]

@[simp] theorem popLoop_pc (s : State) : s.popLoop.pc = s.pc := by
  rcases popLoop_cases s with ⟨_, h⟩ | ⟨_, h⟩ <;> simp [h]

@[simp] theorem popLoop_pmem (s : State) : s.popLoop.pmem = s.pmem := by
  rcases popLoop_cases s with ⟨_, h⟩ | ⟨_, h⟩ <;> simp [h]

@[simp] theorem popLoop_xmem (s : State) : s.popLoop.xmem = s.xmem := by
  rcases popLoop_cases s with ⟨_, h⟩ | ⟨_, h⟩ <;> simp [h]

/-- No write reaches the program counter. -/
@[simp] theorem Write.apply_pc (w : Write) (s : State) : (w.apply s).pc = s.pc := by
  cases w <;> simp [Write.apply]

/-- No write reaches P space. -/
@[simp] theorem Write.apply_pmem (w : Write) (s : State) : (w.apply s).pmem = s.pmem := by
  cases w <;> simp [Write.apply]

/-- X space changes by a memory write alone. -/
theorem Write.apply_xmem (w : Write) (s : State) :
    (w.apply s).xmem = match w with | .mem addr v => s.xmem.writeWord addr v | _ => s.xmem := by
  cases w <;> simp [Write.apply]

/-- A write keeps the stack count at most eight. -/
theorem Write.apply_lsp_le (w : Write) (s : State) (h : s.lsp ≤ 8) : (w.apply s).lsp ≤ 8 := by
  cases w with
  | push la lc =>
    rcases pushLoop_cases s la lc with ⟨_, e⟩ | ⟨_, e⟩ <;> simp [Write.apply, e] <;> omega
  | pop =>
    rcases popLoop_cases s with ⟨_, e⟩ | ⟨_, e⟩ <;> simp [Write.apply, e] <;> omega
  | reg c v => simpa [Write.apply] using h
  | acc d v => simpa [Write.apply] using h
  | mem addr v => simpa [Write.apply] using h
  | flags u => simpa [Write.apply] using h

/-- A write keeps X space canonical. -/
theorem Write.apply_xmem_wf (w : Write) (s : State) (h : s.xmem.wf = true) :
    (w.apply s).xmem.wf = true := by
  rw [Write.apply_xmem]
  split
  · exact Memory.wf_writeWord _ _ _ h
  · exact h

@[simp] theorem applyWrites_nil (s : State) : applyWrites [] s = s := rfl

@[simp] theorem applyWrites_cons (w : Write) (ws : List Write) (s : State) :
    applyWrites (w :: ws) s = applyWrites ws (w.apply s) := rfl

/-- A property every write keeps is kept by a list of writes. -/
theorem applyWrites_keeps {P : State → Prop} (hP : ∀ w s, P s → P (Write.apply w s)) (ws : List Write)
    (s : State) (h : P s) : P (applyWrites ws s) := by
  induction ws generalizing s with
  | nil => exact h
  | cons w ws ih => exact ih _ (hP w s h)

@[simp] theorem applyWrites_pc (ws : List Write) (s : State) : (applyWrites ws s).pc = s.pc := by
  induction ws generalizing s with
  | nil => rfl
  | cons w ws ih => simp [ih]

@[simp] theorem applyWrites_pmem (ws : List Write) (s : State) : (applyWrites ws s).pmem = s.pmem := by
  induction ws generalizing s with
  | nil => rfl
  | cons w ws ih => simp [ih]

/-! ## Address-register updates -/

@[simp] theorem applyUpdates_nil (s : State) : applyUpdates [] s = s := rfl

@[simp] theorem applyUpdates_cons (u : Update) (us : List Update) (s : State) :
    applyUpdates (u :: us) s = applyUpdates us (s.setAddr u.reg u.value) := rfl

/-- A property every address-register write keeps is kept by a list of updates. -/
theorem applyUpdates_keeps {P : State → Prop} (hP : ∀ r v s, P s → P (State.setAddr s r v))
    (us : List Update) (s : State) (h : P s) : P (applyUpdates us s) := by
  induction us generalizing s with
  | nil => exact h
  | cons u us ih => exact ih _ (hP u.reg u.value s h)

@[simp] theorem applyUpdates_pc (us : List Update) (s : State) : (applyUpdates us s).pc = s.pc := by
  induction us generalizing s with
  | nil => rfl
  | cons u us ih => simp [ih]

@[simp] theorem applyUpdates_pmem (us : List Update) (s : State) : (applyUpdates us s).pmem = s.pmem := by
  induction us generalizing s with
  | nil => rfl
  | cons u us ih => simp [ih]

@[simp] theorem applyUpdates_xmem (us : List Update) (s : State) : (applyUpdates us s).xmem = s.xmem := by
  induction us generalizing s with
  | nil => rfl
  | cons u us ih => simp [ih]

@[simp] theorem applyUpdates_sr (us : List Update) (s : State) : (applyUpdates us s).sr = s.sr := by
  induction us generalizing s with
  | nil => rfl
  | cons u us ih => simp [ih]

@[simp] theorem applyUpdates_lsp (us : List Update) (s : State) : (applyUpdates us s).lsp = s.lsp := by
  induction us generalizing s with
  | nil => rfl
  | cons u us ih => simp [ih]

@[simp] theorem applyUpdates_ls (us : List Update) (s : State) : (applyUpdates us s).ls = s.ls := by
  induction us generalizing s with
  | nil => rfl
  | cons u us ih => simp [ih]

@[simp] theorem applyUpdates_data (us : List Update) (s : State) (q : DataReg) :
    (applyUpdates us s).data q = s.data q := by
  induction us generalizing s with
  | nil => rfl
  | cons u us ih => simp [ih]

@[simp] theorem applyUpdates_acc (us : List Update) (s : State) (q : Acc) :
    (applyUpdates us s).acc q = s.acc q := by
  induction us generalizing s with
  | nil => rfl
  | cons u us ih => simp [ih]

@[simp] theorem applyUpdates_offset (us : List Update) (s : State) (q : AddrReg) :
    (applyUpdates us s).offset q = s.offset q := by
  induction us generalizing s with
  | nil => rfl
  | cons u us ih => simp [ih]

/-! ## Evaluation -/

/-- The program counter after an evaluation: the override, or the next opcode (rule R264, step 6). -/
@[simp] theorem evaluateWith_pc (size : Nat) (mv ins : Half) (ma ia : List Word) (s : State) :
    (evaluateWith size mv ins ma ia s).pc = ins.target.getD (s.pc + BitVec.ofNat 16 size) := by
  simp [evaluateWith]

/-- No evaluation writes P space. -/
@[simp] theorem evaluateWith_pmem (size : Nat) (mv ins : Half) (ma ia : List Word) (s : State) :
    (evaluateWith size mv ins ma ia s).pmem = s.pmem := by
  simp [evaluateWith]

/-- A property the program counter has no part in, and every update and write keeps, is kept by an
evaluation. -/
theorem evaluateWith_keeps {P : State → Prop} (hu : ∀ r v s, P s → P (State.setAddr s r v))
    (hw : ∀ w s, P s → P (Write.apply w s)) (hp : ∀ v s, P s → P (State.setPc s v))
    (size : Nat) (mv ins : Half) (ma ia : List Word) (s : State) (h : P s) :
    P (evaluateWith size mv ins ma ia s) :=
  hp _ _ (applyWrites_keeps hw _ _ (applyWrites_keeps hw _ _ (applyUpdates_keeps hu _ _ h)))

/-- Evaluation never fails (rule R265). -/
theorem evaluate_eq (size : Nat) (mv ins : Half) (s : State) :
    evaluate size mv ins s =
      .next (evaluateWith size mv ins (mv.reads.map s.memRead) (ins.reads.map s.memRead) s) := rfl

/-! ## Fetch and decode -/

/-- A decode succeeds exactly where the checks do. -/
theorem decode_eq_ok_iff {word0 : Word} {word1 : Option Word} {i : Instr} :
    decode word0 word1 = .ok i ↔ decodeChecked word0 word1 = .ok i := by
  unfold decode
  split <;> simp_all

/-- A decode error is the name of the check that fails with the first word (rule R301). -/
theorem decode_eq_error_iff {word0 : Word} {word1 : Option Word} {e : DecodeError} :
    decode word0 word1 = .error e ↔ decodeChecked word0 word1 = .error e.name ∧ e.word0 = word0 := by
  obtain ⟨name, word⟩ := e
  unfold decode
  cases decodeChecked word0 word1 with
  | ok i => simp
  | error name' => simp [eq_comm (a := word0)]

/-- An error carries the first word (rule R301). -/
theorem decode_error_word0 {word0 : Word} {word1 : Option Word} {e : DecodeError}
    (h : decode word0 word1 = .error e) : e.word0 = word0 := (decode_eq_error_iff.1 h).2

/-- The codes tell the three errors apart (rule R302). -/
theorem decodeErrorName_code_injective : Function.Injective DecodeErrorName.code := by
  intro x y h
  cases x <;> cases y <;> first | rfl | cases h

/-- Everything the decode at `pc` can do (rule R268): one word where it is enough or an error, else
two. -/
theorem decodeAtPc_cases (s : State) :
    (decode (s.fetch s.pc) none = .error ⟨.incompleteFetch, s.fetch s.pc⟩ ∧
      s.decodeAtPc = decode (s.fetch s.pc) (some (s.fetch (s.pc + 1)))) ∨
    ((∀ w, decode (s.fetch s.pc) none ≠ .error ⟨.incompleteFetch, w⟩) ∧
      s.decodeAtPc = decode (s.fetch s.pc) none) := by
  unfold State.decodeAtPc
  split
  · rename_i w h
    cases (decode_error_word0 h : w = s.fetch s.pc)
    exact .inl ⟨h, rfl⟩
  · rename_i h; exact .inr ⟨fun w => h w, rfl⟩

@[simp] theorem fetch_loadAtPc_pc (s : State) (word0 word1 : Word) :
    (s.loadAtPc word0 word1).fetch s.pc = word0 := by
  have h : s.pc ≠ s.pc + 1 := by
    intro e
    have := congrArg BitVec.toNat e
    simp [BitVec.toNat_add] at this
    omega
  simp only [State.fetch, loadAtPc_pmem, Memory.readWord_writeWord_ne _ _ _ _ h,
    Memory.readWord_writeWord_self]

@[simp] theorem fetch_loadAtPc_next (s : State) (word0 word1 : Word) :
    (s.loadAtPc word0 word1).fetch (s.pc + 1) = word1 := by
  simp only [State.fetch, loadAtPc_pmem, Memory.readWord_writeWord_self]

end Sys2Proof.Machine
end

