-- ==== Sys2Proof/Laws/Exec.lean ====
section
/-! SUPPORT. Every meaning is one evaluation of the opcode's two halves, and what `step` can do: the two
lemmas that later proofs cite instead of unfolding the dispatch. -/

namespace Sys2Proof.Machine

/-- The meaning of every opcode is the evaluation of its two halves with the answers of plain memory. -/
theorem exec_eq_evaluateOpcode (i : Instr) (s : State) :
    exec i s = .next (evaluateOpcode i ((moveHalfOf i s).reads.map s.memRead)
      ((instrHalfOf i s).reads.map s.memRead) s) := by
  cases i <;> rfl

/-- Everything `step` can do. -/
theorem step_cases (s : State) :
    (∃ i, s.decodeAtPc = .ok i ∧ step s = exec i s) ∨
    (∃ e, s.decodeAtPc = .error e ∧ step s = .fault (.stopped e s.pc (s.fetch s.pc))) := by
  unfold step
  cases h : s.decodeAtPc with
  | ok i => exact .inl ⟨i, rfl, rfl⟩
  | error e => exact .inr ⟨e, rfl, rfl⟩

end Sys2Proof.Machine
end

