-- ==== Sys2Proof/Laws/Frames.lean ====
section
/-! SUPPORT. Frames: which registers and which bytes of X space each write can change, and how frames
compose. -/

namespace Sys2Proof.Machine

/-! ## Composition -/

theorem RegsKept.refl (regs : List Reg) (s : State) : RegsKept regs s s := fun _ _ => rfl

theorem RegsKept.trans {p q : List Reg} {s t u : State} (h : RegsKept p s t) (k : RegsKept q t u) :
    RegsKept (p ++ q) s u := fun r hr => by
  rw [k r (fun hq => hr (List.mem_append_right _ hq)), h r (fun hp => hr (List.mem_append_left _ hp))]

theorem RegsKept.mono {p q : List Reg} {s t : State} (h : RegsKept p s t) (hs : ∀ r ∈ p, r ∈ q) :
    RegsKept q s t := fun r hr => h r fun hp => hr (hs _ hp)

theorem MemKept.refl (ws : List Word) (s : State) : MemKept ws s s := fun _ _ => rfl

theorem MemKept.of_xmem_eq {ws : List Word} {s t : State} (h : t.xmem = s.xmem) : MemKept ws s t :=
  fun _ _ => by rw [h]

theorem MemKept.trans {p q : List Word} {s t u : State} (h : MemKept p s t) (k : MemKept q t u) :
    MemKept (p ++ q) s u := fun a ha => by
  rw [k a fun w hw => ha w (List.mem_append_right _ hw), h a fun w hw => ha w (List.mem_append_left _ hw)]

theorem MemKept.mono {p q : List Word} {s t : State} (h : MemKept p s t) (hs : ∀ w ∈ p, w ∈ q) :
    MemKept q s t := fun a ha => h a fun w hw => ha w (hs w hw)

/-! ## Updates -/

theorem setReg16_full (s : State) (r q : Reg) (v : Word) (h : home q ≠ home r) :
    (s.setReg16 r v).full q = s.full q := by
  cases q <;> cases r <;> first | (exact absurd rfl h) | rfl

theorem setAcc_full (s : State) (d : Acc) (q : Reg) (v : Wide) (h : home q ≠ accName d) :
    (s.setAcc d v).full q = s.full q := by
  cases q <;> cases d <;> first | (exact absurd rfl h) | rfl

theorem setAddr_full (s : State) (n : AddrReg) (q : Reg) (v : Word) (h : home q ≠ addrName n) :
    (s.setAddr n v).full q = s.full q := by
  cases q <;> cases n <;> first | (exact absurd rfl h) | rfl

theorem setSr_full (s : State) (q : Reg) (f : Status) (h : home q ≠ .sr) :
    (s.setSr f).full q = s.full q := by
  cases q <;> first | (exact absurd rfl h) | rfl

theorem setLc_full (s : State) (q : Reg) (v : Word) (h : home q ≠ .lc) : (s.setLc v).full q = s.full q := by
  cases q <;> first | (exact absurd rfl h) | rfl

theorem setLa_full (s : State) (q : Reg) (v : Word) (h : home q ≠ .la) : (s.setLa v).full q = s.full q := by
  cases q <;> first | (exact absurd rfl h) | rfl

@[simp] theorem setPc_full (s : State) (q : Reg) (v : Word) : (s.setPc v).full q = s.full q := by
  cases q <;> rfl

@[simp] theorem memWrite_full (s : State) (q : Reg) (addr v : Word) :
    (s.memWrite addr v).full q = s.full q := by
  cases q <;> rfl

@[simp] theorem setLoop_full (s : State) (q : Reg) (ls : LoopStack) (n : Nat) :
    (s.setLoop ls n).full q = s.full q := by
  cases q <;> rfl

/-! ## Writes -/

/-- The whole registers a write can change. -/
def Write.regs : Write → List Reg
  | .reg c _ => [home c]
  | .acc d _ => [accName d]
  | .mem _ _ => []
  | .push _ _ => [.sr]
  | .pop => [.sr, .la, .lc]
  | .flags _ => [.sr]

/-- The words of X space a write stores to. -/
def Write.stores : Write → List Word
  | .mem addr _ => [addr]
  | _ => []

/-- A write changes no register but those of `Write.regs`. -/
theorem Write.apply_regsKept (w : Write) (s : State) : RegsKept w.regs s (w.apply s) := by
  intro r hr
  cases w with
  | reg c v => exact setReg16_full s c r v (by simpa [Write.regs] using hr)
  | acc d v => exact setAcc_full s d r v (by simpa [Write.regs] using hr)
  | mem addr v => exact memWrite_full s r addr v
  | push la lc =>
    have h : home r ≠ .sr := by simpa [Write.regs] using hr
    rcases pushLoop_cases s la lc with ⟨_, e⟩ | ⟨_, e⟩
    · simp only [Write.apply, e, setLoop_full]
    · simp only [Write.apply, e, State.setSe, setSr_full _ _ _ h, setLoop_full]
  | pop =>
    have h : home r ≠ .sr ∧ home r ≠ .la ∧ home r ≠ .lc := by simpa [Write.regs] using hr
    rcases popLoop_cases s with ⟨_, e⟩ | ⟨_, e⟩
    · simp only [Write.apply, e, State.setSe, setSr_full _ _ _ h.1]
    · simp only [Write.apply, e, setLc_full _ _ _ h.2.2, setLa_full _ _ _ h.2.1, setLoop_full]
  | flags u => exact setSr_full s r _ (by simpa [Write.regs] using hr)

/-- A write changes no byte of X space outside the words of `Write.stores`. -/
theorem Write.apply_memKept (w : Write) (s : State) : MemKept w.stores s (w.apply s) := by
  intro k hk
  rw [Write.apply_xmem]
  cases w with
  | mem addr v =>
    have h := hk addr (by simp [Write.stores])
    exact Memory.read_writeWord_ne _ _ _ _ h.1 h.2
  | reg c v => rfl
  | acc d v => rfl
  | push la lc => rfl
  | pop => rfl
  | flags u => rfl

/-- A list of writes changes no register but those of its writes. -/
theorem applyWrites_regsKept (ws : List Write) (s : State) :
    RegsKept (ws.flatMap Write.regs) s (applyWrites ws s) := by
  induction ws generalizing s with
  | nil => exact RegsKept.refl _ _
  | cons w ws ih => exact (Write.apply_regsKept w s).trans (ih _)

/-- A list of writes changes no byte of X space outside the words its writes store to. -/
theorem applyWrites_memKept (ws : List Write) (s : State) :
    MemKept (ws.flatMap Write.stores) s (applyWrites ws s) := by
  induction ws generalizing s with
  | nil => exact MemKept.refl _ _
  | cons w ws ih => exact (Write.apply_memKept w s).trans (ih _)

/-- Address-register updates change those registers alone. -/
theorem applyUpdates_regsKept (us : List Update) (s : State) :
    RegsKept (us.map fun u => addrName u.reg) s (applyUpdates us s) := by
  induction us generalizing s with
  | nil => exact RegsKept.refl _ _
  | cons u us ih =>
    exact RegsKept.trans (p := [addrName u.reg])
      (fun r hr => setAddr_full s u.reg r u.value (by simpa using hr)) (ih _)

/-- The registers an evaluation can change. -/
theorem evaluateWith_regsKept (size : Nat) (mv ins : Half) (ma ia : List Word) (s : State) :
    RegsKept (((mv.updates ++ ins.updates).map fun u => addrName u.reg)
        ++ (ins.writes ia).flatMap Write.regs ++ (mv.writes ma).flatMap Write.regs)
      s (evaluateWith size mv ins ma ia s) :=
  fun r hr => by
    simp only [evaluateWith, setPc_full]
    exact (((applyUpdates_regsKept _ s).trans (applyWrites_regsKept _ _)).trans
      (applyWrites_regsKept _ _)) r hr

/-- The words of X space an evaluation can store to. -/
theorem evaluateWith_memKept (size : Nat) (mv ins : Half) (ma ia : List Word) (s : State) :
    MemKept ((ins.writes ia).flatMap Write.stores ++ (mv.writes ma).flatMap Write.stores)
      s (evaluateWith size mv ins ma ia s) := by
  have h := ((applyWrites_memKept (ins.writes ia) (applyUpdates (mv.updates ++ ins.updates) s)).trans
    (applyWrites_memKept (mv.writes ma) _))
  intro k hk
  have e := h k hk
  simpa [evaluateWith] using e

end Sys2Proof.Machine
end

