-- ==== Sys2Proof/Laws/PerInstr.lean ====
section
/-! SUPPORT. A family of statements made once per constructor of `Instr`: the encoder gives an opcode a second
word exactly where the opcode is two words long (rules R82, R84, R262). -/

namespace Sys2Proof.Laws

/-- A format P move is two words long exactly where it has a datum. -/
theorem wordCount_move (m : PMove) : m.size = if m.datum.isSome then 2 else 1 := by cases m <;> rfl

end Sys2Proof.Laws

namespace Sys2Proof.Laws.WordCount

/-- An opcode is two words long exactly where its encoding has a second word. -/
def Statement (i : Instr) : Prop := i.size = if (encode i).2.isSome then 2 else 1

theorem empty : Statement .empty := rfl
theorem regmove : ∀ src dst, Statement (.regmove src dst) := fun _ _ => rfl
theorem immload : ∀ imm dst, Statement (.immload imm dst) := fun _ _ => rfl
theorem absread : ∀ addr dst, Statement (.absread addr dst) := fun _ _ => rfl
theorem abswrite : ∀ src addr, Statement (.abswrite src addr) := fun _ _ => rfl
theorem memread : ∀ rn dst, Statement (.memread rn dst) := fun _ _ => rfl
theorem memwrite : ∀ src rn, Statement (.memwrite src rn) := fun _ _ => rfl
theorem clr : ∀ m d, Statement (.clr m d) := fun m _ => wordCount_move m
theorem tst : ∀ m d, Statement (.tst m d) := fun m _ => wordCount_move m
theorem abs : ∀ m d, Statement (.abs m d) := fun m _ => wordCount_move m
theorem neg : ∀ m d, Statement (.neg m d) := fun m _ => wordCount_move m
theorem not : ∀ m d, Statement (.not m d) := fun m _ => wordCount_move m
theorem rnd : ∀ m d, Statement (.rnd m d) := fun m _ => wordCount_move m
theorem tfrAcc : ∀ m d, Statement (.tfrAcc m d) := fun m _ => wordCount_move m
theorem asl : ∀ m d, Statement (.asl m d) := fun m _ => wordCount_move m
theorem asr : ∀ m d, Statement (.asr m d) := fun m _ => wordCount_move m
theorem lsl : ∀ m d, Statement (.lsl m d) := fun m _ => wordCount_move m
theorem lsr : ∀ m d, Statement (.lsr m d) := fun m _ => wordCount_move m
theorem rol : ∀ m d, Statement (.rol m d) := fun m _ => wordCount_move m
theorem ror : ∀ m d, Statement (.ror m d) := fun m _ => wordCount_move m
theorem inc : ∀ m d, Statement (.inc m d) := fun m _ => wordCount_move m
theorem dec : ∀ m d, Statement (.dec m d) := fun m _ => wordCount_move m
theorem add : ∀ m src d, Statement (.add m src d) := fun m _ _ => wordCount_move m
theorem addAcc : ∀ m d, Statement (.addAcc m d) := fun m _ => wordCount_move m
theorem sub : ∀ m src d, Statement (.sub m src d) := fun m _ _ => wordCount_move m
theorem subAcc : ∀ m d, Statement (.subAcc m d) := fun m _ => wordCount_move m
theorem cmp : ∀ m src d, Statement (.cmp m src d) := fun m _ _ => wordCount_move m
theorem cmpAcc : ∀ m d, Statement (.cmpAcc m d) := fun m _ => wordCount_move m
theorem and : ∀ m src d, Statement (.and m src d) := fun m _ _ => wordCount_move m
theorem tfrData : ∀ m src d, Statement (.tfrData m src d) := fun m _ _ => wordCount_move m
theorem or : ∀ m src d, Statement (.or m src d) := fun m _ _ => wordCount_move m
theorem tfrAddr : ∀ m rn d, Statement (.tfrAddr m rn d) := fun m _ _ => wordCount_move m
theorem eor : ∀ m src d, Statement (.eor m src d) := fun m _ _ => wordCount_move m
theorem mpy : ∀ m k q d, Statement (.mpy m k q d) := fun m _ _ _ => wordCount_move m
theorem mpyr : ∀ m k q d, Statement (.mpyr m k q d) := fun m _ _ _ => wordCount_move m
theorem mac : ∀ m k q d, Statement (.mac m k q d) := fun m _ _ _ => wordCount_move m
theorem macr : ∀ m k q d, Statement (.macr m k q d) := fun m _ _ _ => wordCount_move m
theorem dualread : ∀ base mode1 dst1 mode2 dst2 k q d, Statement (.dualread base mode1 dst1 mode2 dst2 k q d) := fun _ _ _ _ _ _ _ _ => rfl
theorem dualreg : ∀ src1 dst1 src2 dst2 k q d, Statement (.dualreg src1 dst1 src2 dst2 k q d) := fun _ _ _ _ _ _ _ => rfl
theorem mpyrD : ∀ m k q d, Statement (.mpyrD m k q d) := fun _ _ _ _ => rfl
theorem macD : ∀ m k q d, Statement (.macD m k q d) := fun _ _ _ _ => rfl
theorem macrD : ∀ m k q d, Statement (.macrD m k q d) := fun _ _ _ _ => rfl
theorem nop : Statement .nop := rfl
theorem enddo : Statement .enddo := rfl
theorem next : Statement .next := rfl
theorem moveReg : ∀ src dst, Statement (.moveReg src dst) := fun _ _ => rfl
theorem moveLoad : ∀ dst mode rn, Statement (.moveLoad dst mode rn) := fun _ _ _ => rfl
theorem moveLoadDisp : ∀ dst rn disp, Statement (.moveLoadDisp dst rn disp) := fun _ _ _ => rfl
theorem moveLoadAbs : ∀ dst addr, Statement (.moveLoadAbs dst addr) := fun _ _ => rfl
theorem moveImm : ∀ dst imm, Statement (.moveImm dst imm) := fun _ _ => rfl
theorem moveStore : ∀ src mode rn, Statement (.moveStore src mode rn) := fun _ _ _ => rfl
theorem moveStoreDisp : ∀ src rn disp, Statement (.moveStoreDisp src rn disp) := fun _ _ _ => rfl
theorem moveStoreAbs : ∀ src addr, Statement (.moveStoreAbs src addr) := fun _ _ => rfl
theorem addi : ∀ imm d, Statement (.addi imm d) := fun _ _ => rfl
theorem subi : ∀ imm d, Statement (.subi imm d) := fun _ _ => rfl
theorem cmpi : ∀ imm d, Statement (.cmpi imm d) := fun _ _ => rfl
theorem andi : ∀ imm d, Statement (.andi imm d) := fun _ _ => rfl
theorem ori : ∀ imm d, Statement (.ori imm d) := fun _ _ => rfl
theorem eori : ∀ imm d, Statement (.eori imm d) := fun _ _ => rfl
theorem andc : ∀ imm, Statement (.andc imm) := fun _ => rfl
theorem orc : ∀ imm, Statement (.orc imm) := fun _ => rfl
theorem bccShort : ∀ cond disp, Statement (.bccShort cond disp) := fun _ _ => rfl
theorem bccLong : ∀ cond disp, Statement (.bccLong cond disp) := fun _ _ => rfl
theorem jccAbs : ∀ cond target, Statement (.jccAbs cond target) := fun _ _ => rfl
theorem jccReg : ∀ cond rn, Statement (.jccReg cond rn) := fun _ _ => rfl
theorem doImm : ∀ count, Statement (.doImm count) := fun _ => rfl
theorem doReg : ∀ src, Statement (.doReg src) := fun _ => rfl
theorem btstReg : ∀ bit r, Statement (.btstReg bit r) := fun _ _ => rfl
theorem btstMem : ∀ bit rn, Statement (.btstMem bit rn) := fun _ _ => rfl
theorem bsetReg : ∀ bit r, Statement (.bsetReg bit r) := fun _ _ => rfl
theorem bsetMem : ∀ bit rn, Statement (.bsetMem bit rn) := fun _ _ => rfl
theorem bclrReg : ∀ bit r, Statement (.bclrReg bit r) := fun _ _ => rfl
theorem bclrMem : ∀ bit rn, Statement (.bclrMem bit rn) := fun _ _ => rfl
theorem bchgReg : ∀ bit r, Statement (.bchgReg bit r) := fun _ _ => rfl
theorem bchgMem : ∀ bit rn, Statement (.bchgMem bit rn) := fun _ _ => rfl

end Sys2Proof.Laws.WordCount
end

