-- ==== Sys2Proof/Tests/Slice0.lean ====
section
/-! SUPPORT. The model's own tests: ill-formed terms that `Instr.wellFormed` refuses; for every constructor a
word written out from the encoding tables that decodes to it; single steps whose results are the worked
examples of the rules named beside them; and for every statement with hypotheses a state and operands that
meet them. -/

namespace Sys2Proof.Machine.Tests

/-! ## Helpers -/

/-- `SR` with the given bits. -/
def flags (v : Word) : Status := Status.ofWord v

/-- X space with one word written. -/
def word (addr v : Word) : Memory := Memory.writeWord [] addr v

/-- X space with two words written. -/
def twoWords (addr v addr' v' : Word) : Memory := Memory.writeWord (word addr v) addr' v'

/-- The state after one step over the opcode whose bits are `w`, if the step goes on. -/
def after (s : State) (w : Nat) : Option State :=
  match step (s.withFetchWord 32 w) with
  | .next t => some t
  | _ => none

/-! ## What `wellFormed` refuses (rules R84, R100) -/

theorem test_wellFormed_refuses_move_to_itself : (Instr.regmove .a .a).wellFormed = false := by decide
theorem test_wellFormed_refuses_paired_move_to_itself :
    (Instr.clr (.regmove .x1 .x1) .b).wellFormed = false := by decide
theorem test_wellFormed_refuses_bit_of_accumulator_a : (Instr.btstReg 0 .a).wellFormed = false := by decide
theorem test_wellFormed_refuses_bit_of_accumulator_b : (Instr.bsetReg 15 .b).wellFormed = false := by decide
theorem test_wellFormed_refuses_bit_of_sr : (Instr.bclrReg 3 .sr).wellFormed = false := by decide
theorem test_wellFormed_refuses_change_of_sr : (Instr.bchgReg 3 .sr).wellFormed = false := by decide

/-! ## Decoding: one word for every constructor -/

theorem test_decode_empty : decode 0b1_0_000_000_00000000 none = .ok .empty := by decide
theorem test_decode_regmove : decode 0b1_0_000_001_00000000 none = .ok (.regmove .x0 .x1) := by decide
theorem test_decode_immload : decode 0b1_0_110_000_00000000 (some 0xABCD) = .ok (.immload 0xABCD .x0) := by decide
theorem test_decode_absread : decode 0b1_0_111_001_00000000 (some 0x0200) = .ok (.absread 0x0200 .x1) := by decide
theorem test_decode_abswrite : decode 0b1_0_100_110_00000000 (some 0x0300) = .ok (.abswrite .a 0x0300) := by decide
theorem test_decode_memread : decode 0b1_1_0_01_001_00000000 none = .ok (.memread .r1 .x1) := by decide
theorem test_decode_memwrite : decode 0b1_1_1_00_101_00000000 none = .ok (.memwrite .b .r0) := by decide
theorem test_decode_clr : decode 0b1_0_000_000_0_000_0_001 none = .ok (.clr .empty .a) := by decide
theorem test_decode_tst : decode 0b1_0_000_000_0_000_1_010 none = .ok (.tst .empty .b) := by decide
theorem test_decode_abs : decode 0b1_0_000_000_0_000_0_011 none = .ok (.abs .empty .a) := by decide
theorem test_decode_neg : decode 0b1_0_000_000_0_000_1_100 none = .ok (.neg .empty .b) := by decide
theorem test_decode_not : decode 0b1_0_000_000_0_000_0_101 none = .ok (.not .empty .a) := by decide
theorem test_decode_rnd : decode 0b1_0_000_000_0_000_0_110 none = .ok (.rnd .empty .a) := by decide
theorem test_decode_tfrAcc : decode 0b1_0_000_000_0_000_1_111 none = .ok (.tfrAcc .empty .b) := by decide
theorem test_decode_asl : decode 0b1_0_100_000_0_001_0_000 none = .ok (.asl (.regmove .a .x0) .a) := by decide
theorem test_decode_asr : decode 0b1_0_000_000_0_001_0_001 none = .ok (.asr .empty .a) := by decide
theorem test_decode_lsl : decode 0b1_0_000_000_0_001_0_010 none = .ok (.lsl .empty .a) := by decide
theorem test_decode_lsr : decode 0b1_0_000_000_0_001_0_011 none = .ok (.lsr .empty .a) := by decide
theorem test_decode_rol : decode 0b1_0_000_000_0_001_0_100 none = .ok (.rol .empty .a) := by decide
theorem test_decode_ror : decode 0b1_0_000_000_0_001_0_101 none = .ok (.ror .empty .a) := by decide
theorem test_decode_inc : decode 0b1_0_000_000_0_001_1_110 none = .ok (.inc .empty .b) := by decide
theorem test_decode_dec : decode 0b1_0_000_000_0_001_1_111 none = .ok (.dec .empty .b) := by decide
theorem test_decode_add : decode 0b1_0_110_000_0_010_0_000 (some 0x0005) = .ok (.add (.immload 5 .x0) .x0 .a) := by decide
theorem test_decode_addAcc : decode 0b1_1_0_01_101_0_010_1_100 none = .ok (.addAcc (.memread .r1 .b) .b) := by decide
theorem test_decode_sub : decode 0b1_0_000_000_0_011_0_001 none = .ok (.sub .empty .x1 .a) := by decide
theorem test_decode_subAcc : decode 0b1_0_000_000_0_011_1_100 none = .ok (.subAcc .empty .b) := by decide
theorem test_decode_cmp : decode 0b1_0_000_000_0_100_0_010 none = .ok (.cmp .empty .y0 .a) := by decide
theorem test_decode_cmpAcc : decode 0b1_0_000_000_0_100_1_100 none = .ok (.cmpAcc .empty .b) := by decide
theorem test_decode_and : decode 0b1_0_000_000_0_101_1_011 none = .ok (.and .empty .y1 .b) := by decide
theorem test_decode_tfrData : decode 0b1_0_000_000_0_101_1_111 none = .ok (.tfrData .empty .y1 .b) := by decide
theorem test_decode_or : decode 0b1_0_000_000_0_110_0_010 none = .ok (.or .empty .y0 .a) := by decide
theorem test_decode_tfrAddr : decode 0b1_1_0_00_000_0_110_0_100 none = .ok (.tfrAddr (.memread .r0 .x0) .r0 .a) := by decide
theorem test_decode_eor : decode 0b1_0_000_000_0_111_0_001 none = .ok (.eor .empty .x1 .a) := by decide
theorem test_decode_mpy : decode 0b1_0_000_000_1_1_00_0_111 none = .ok (.mpy .empty .minus .y1y0 .a) := by decide
theorem test_decode_mpyr : decode 0b1_0_000_000_1_0_01_0_000 none = .ok (.mpyr .empty .plus .x0y0 .a) := by decide
theorem test_decode_mac : decode 0b1_0_100_001_1_0_10_0_000 none = .ok (.mac (.regmove .a .x1) .plus .x0y0 .a) := by decide
theorem test_decode_macr : decode 0b1_1_1_00_011_1_1_11_1_111 none = .ok (.macr (.memwrite .y1 .r0) .minus .y1y0 .b) := by decide
theorem test_decode_dualread : decode 0b01_0_1_11_1_11_1_0_00_0_00 none = .ok (.dualread .r1 .postAdd .x1 .postAdd .y1 .plus .x0y0 .a) := by decide
theorem test_decode_dualreg : decode 0b01_1_00_01_0_10_0_00_0_00 none = .ok (.dualreg .x0 .x1 .a .y0 .plus .x0y0 .a) := by decide
theorem test_decode_mpyrD : decode 0b01_0_0_00_0_00_0_1_01_1_10 none = .ok (.mpyrD (.dualread .r0 .indirect .x0 .indirect .y0) .minus .x1y0 .b) := by decide
theorem test_decode_macD : decode 0b01_0_0_01_0_11_0_0_10_0_00 none = .ok (.macD (.dualread .r0 .postInc .x0 .postAdd .y0) .plus .x0y0 .a) := by decide
theorem test_decode_macrD : decode 0b01_1_11_11_1_11_1_11_1_11 none = .ok (.macrD (.dualreg .y1 .y1 .b .y1) .minus .x1y1 .b) := by decide
theorem test_decode_nop : decode 0b00_0000_0000000000 none = .ok .nop := by decide
theorem test_decode_enddo : decode 0b00_0000_0000000001 none = .ok .enddo := by decide
theorem test_decode_next : decode 0b00_0000_0000000010 none = .ok .next := by decide
theorem test_decode_moveReg : decode 0b00_0001_00101_00011 none = .ok (.moveReg .b .y1) := by decide
theorem test_decode_moveLoad : decode 0b00_0010_00011_011_11 none = .ok (.moveLoad .y1 .postAdd .r3) := by decide
theorem test_decode_moveLoadDisp : decode 0b00_0010_01000_110_10 (some 0xFFF0) = .ok (.moveLoadDisp .a1 .r2 0xFFF0) := by decide
theorem test_decode_moveLoadAbs : decode 0b00_0010_01100_111_00 (some 0x1234) = .ok (.moveLoadAbs .r0 0x1234) := by decide
theorem test_decode_moveImm : decode 0b00_0010_10100_111_01 (some 0xFFFF) = .ok (.moveImm .sr 0xFFFF) := by decide
theorem test_decode_moveStore : decode 0b00_0011_01010_100_11 none = .ok (.moveStore .a2 .preDec .r3) := by decide
theorem test_decode_moveStoreDisp : decode 0b00_0011_10101_110_01 (some 0x0005) = .ok (.moveStoreDisp .lc .r1 5) := by decide
theorem test_decode_moveStoreAbs : decode 0b00_0011_00110_111_00 (some 0x8000) = .ok (.moveStoreAbs .a0 0x8000) := by decide
theorem test_decode_addi : decode 0b00_0100_000_1_000000 (some 0xFFFF) = .ok (.addi 0xFFFF .b) := by decide
theorem test_decode_subi : decode 0b00_0100_001_1_000000 (some 0x8000) = .ok (.subi 0x8000 .b) := by decide
theorem test_decode_cmpi : decode 0b00_0100_010_0_000000 (some 0x1234) = .ok (.cmpi 0x1234 .a) := by decide
theorem test_decode_andi : decode 0b00_0100_011_0_000000 (some 0x00FF) = .ok (.andi 0x00FF .a) := by decide
theorem test_decode_ori : decode 0b00_0100_100_1_000000 (some 0x8000) = .ok (.ori 0x8000 .b) := by decide
theorem test_decode_eori : decode 0b00_0100_101_0_000000 (some 0xFFFF) = .ok (.eori 0xFFFF .a) := by decide
theorem test_decode_andc : decode 0b00_0101_0_0_11101111 none = .ok (.andc 0xEF) := by decide
theorem test_decode_orc : decode 0b00_0101_1_0_00000101 none = .ok (.orc 0x05) := by decide
theorem test_decode_bccShort : decode 0b00_1000_0010_111101 none = .ok (.bccShort .ne 0x3D) := by decide
theorem test_decode_bccLong : decode 0b00_1010_1001_00_00_00 (some 0x0010) = .ok (.bccLong .lt 0x0010) := by decide
theorem test_decode_jccAbs : decode 0b00_1010_1110_01_00_00 (some 0x1234) = .ok (.jccAbs .al 0x1234) := by decide
theorem test_decode_jccReg : decode 0b00_1010_0011_10_00_11 none = .ok (.jccReg .eq .r3) := by decide
theorem test_decode_doImm : decode 0b00_1011_0_0_00001010 none = .ok (.doImm 0x0A) := by decide
theorem test_decode_doReg : decode 0b00_1011_1_0000_10101 none = .ok (.doReg .lc) := by decide
theorem test_decode_btstReg : decode 0b00_1100_1000_01010_0 none = .ok (.btstReg 8 .a2) := by decide
theorem test_decode_btstMem : decode 0b00_1100_0101_00001_1 none = .ok (.btstMem 5 .r1) := by decide
theorem test_decode_bsetReg : decode 0b00_1101_1111_01000_0 none = .ok (.bsetReg 15 .a1) := by decide
theorem test_decode_bsetMem : decode 0b00_1101_0011_00001_1 none = .ok (.bsetMem 3 .r1) := by decide
theorem test_decode_bclrReg : decode 0b00_1110_0100_01100_0 none = .ok (.bclrReg 4 .r0) := by decide
theorem test_decode_bclrMem : decode 0b00_1110_0011_00001_1 none = .ok (.bclrMem 3 .r1) := by decide
theorem test_decode_bchgReg : decode 0b00_1111_0111_10110_0 none = .ok (.bchgReg 7 .la) := by decide
theorem test_decode_bchgMem : decode 0b00_1111_1111_00011_1 none = .ok (.bchgMem 15 .r3) := by decide

/-! ## What the decoder refuses (rules R301 to R304, R317) -/

theorem test_decode_invalid : decode 0x8008 none = .error ⟨.invalidOpcode, 0x8008⟩ := by decide
theorem test_decode_invalid_bit_operand : decode 0x3028 none = .error ⟨.invalidOpcode, 0x3028⟩ := by decide
theorem test_decode_addressing_mode : decode 0x081E (some 0x1234) = .error ⟨.addressingMode, 0x081E⟩ := by decide
theorem test_decode_store_to_immediate : decode 0x0C1D none = .error ⟨.addressingMode, 0x0C1D⟩ := by decide
theorem test_decode_register_before_mode : decode 0x0AFE none = .error ⟨.invalidOpcode, 0x0AFE⟩ := by decide
theorem test_decode_incomplete : decode 0x0818 none = .error ⟨.incompleteFetch, 0x0818⟩ := by decide
theorem test_decode_error_codes :
    [DecodeErrorName.invalidOpcode, .addressingMode, .incompleteFetch].map DecodeErrorName.code = [1, 2, 3] := by
  decide

/-- A word that decodes to nothing stops the step with the error, `pc` and the word (rule R268). -/
theorem test_step_stops :
    step ({ State.reset with pc := 0x0100 }.withFetchWord 16 0x8008) =
      .fault (.stopped ⟨.invalidOpcode, 0x8008⟩ 0x0100 0x8008) := rfl

/-! ## Disassembly (rules R284, R285) -/

theorem test_text_of_dual : disassemble
    (.macrD (.dualread .r1 .postAdd .x1 .postAdd .y1) .minus .x1y1 .b) =
    "MOVE X:(R1)+N1,X1 X:(R3)+N3,Y1 || MACR -X1,Y1,B" := by decide
theorem test_text_of_branch : disassemble (.bccShort .ne 0x3D) = "BNE -$0003" := by decide

/-! ## One step each: worked examples of the rules -/

theorem test_empty : -- R141
    (after { State.reset with sr := flags 0x000F } 0x8000).map (fun t => (t.pc, t.sr)) = some (1, flags 0x000F) := by decide
theorem test_regmove : -- R142
    (after { State.reset with a := 0xFF7FFFFFFF } 0xA500).map (fun t => (t.b, t.a)) = some (0xFF80000000, 0xFF7FFFFFFF) := by decide
theorem test_immload : -- R143
    (after State.reset 0x8000B400).map (fun t => (t.a, t.pc)) = some (0xFF80000000, 2) := by decide
theorem test_absread : -- R144
    (after { State.reset with xmem := word 0x0200 0x7777 } 0x0200B900).map (fun t => (t.x1, t.pc)) = some (0x7777, 2) := by decide
theorem test_abswrite : -- R145
    (after { State.reset with a := 0x0123456789 } 0x0300A600).map (fun t => (t.memRead 0x0300, t.a)) = some (0x7FFF, 0x0123456789) := by decide
theorem test_memread : -- R146
    (after { State.reset with r1 := 0xFFFF, xmem := word 0xFFFF 0x00AA } 0xC900).map (fun t => (t.x1, t.r1)) = some (0x00AA, 0) := by decide
theorem test_memwrite : -- R147
    (after { State.reset with r0 := 0x0010, b := 0xFF7FFF0000 } 0xE500).map (fun t => (t.memRead 0x0010, t.r0)) = some (0x8000, 0x0011) := by decide
theorem test_clr : -- R163
    (after { State.reset with a := 0x1234567890, sr := flags 0x000B } 0x8001).map (fun t => (t.a, t.sr)) = some (0, flags 0x0005) := by decide
theorem test_tst : -- R164
    (after { State.reset with a := 0x8000000000, sr := flags 0x0003 } 0x8002).map (fun t => (t.a, t.sr)) = some (0x8000000000, flags 0x0009) := by decide
theorem test_abs : -- R165
    (after { State.reset with a := 0x8000000000, sr := flags 0x0001 } 0x8003).map (fun t => (t.a, t.sr)) = some (0x8000000000, flags 0x000B) := by decide
theorem test_neg : -- R166
    (after { State.reset with b := 0xFFFFFFFFFF } 0x800C).map (fun t => (t.b, t.sr)) = some (1, flags 0x0001) := by decide
theorem test_not : -- R167
    (after { State.reset with a := 0x12FFFF5678, sr := flags 0x0003 } 0x8005).map (fun t => (t.a, t.sr)) = some (0x1200005678, flags 0x0005) := by decide
theorem test_rnd : -- R168
    (after { State.reset with a := 0x0012358000 } 0x8006).map (fun t => (t.a, t.sr)) = some (0x0012360000, flags 0) := by decide
theorem test_rnd_overflow : -- R168
    (after { State.reset with a := 0x7FFFFF8000 } 0x8006).map (fun t => (t.a, t.sr)) = some (0x8000000000, flags 0x000A) := by decide
theorem test_tfrAcc : -- R169
    (after { State.reset with b := 0x123456789A, sr := flags 0x000F } 0x8007).map (fun t => (t.a, t.sr)) = some (0x123456789A, flags 0x000F) := by decide
theorem test_asl : -- R152
    (after { State.reset with a := 0x0040000000 } 0xA010).map (fun t => (t.x0, t.a)) = some (0x4000, 0x0080000000) := by decide
theorem test_asl_flags : -- R170
    (after { State.reset with a := 0x8000000000 } 0x8010).map (fun t => (t.a, t.sr)) = some (0, flags 0x0007) := by decide
theorem test_asr : -- R171
    (after { State.reset with a := 0x8000000001 } 0x8011).map (fun t => (t.a, t.sr)) = some (0xC000000000, flags 0x0009) := by decide
theorem test_lsl : -- R172
    (after { State.reset with a := 0xAB8001CDEF } 0x8012).map (fun t => (t.a, t.sr)) = some (0xAB0002CDEF, flags 0x0001) := by decide
theorem test_lsr : -- R173
    (after { State.reset with a := 0xAB8001CDEF } 0x8013).map (fun t => (t.a, t.sr)) = some (0xAB4000CDEF, flags 0x0001) := by decide
theorem test_rol : -- R174
    (after { State.reset with a := 0xAB8000CDEF, sr := flags 1 } 0x8014).map (fun t => (t.a, t.sr)) = some (0xAB0001CDEF, flags 0x0001) := by decide
theorem test_ror : -- R175
    (after { State.reset with a := 0xAB0001CDEF, sr := flags 1 } 0x8015).map (fun t => (t.a, t.sr)) = some (0xAB8000CDEF, flags 0x0009) := by decide
theorem test_inc : -- R176
    (after { State.reset with a := 0xFFFFFFFFFF } 0x8016).map (fun t => (t.a, t.sr)) = some (0, flags 0x0005) := by decide
theorem test_dec : -- R177
    (after { State.reset with a := 0x8000000000 } 0x8017).map (fun t => (t.a, t.sr)) = some (0x7FFFFFFFFF, flags 0x0002) := by decide
theorem test_add : -- R178
    (after { State.reset with a := 0x7FFFFF0000, y1 := 1 } 0x8023).map (fun t => (t.a, t.sr)) = some (0x8000000000, flags 0x000A) := by decide
theorem test_add_same_destination : -- R151
    (after { State.reset with r0 := 0x0040, x0 := 1, a := 0x0000020000, xmem := word 0x0040 0x9000 } 0xC420).map (fun t => (t.a, t.sr)) = some (0xFF90000000, flags 0) := by decide
theorem test_addAcc : -- R178
    (after { State.reset with a := 0x8000000000, b := 0x8000000000 } 0x802C).map (fun t => (t.b, t.sr)) = some (0, flags 0x0007) := by decide
theorem test_sub : -- R179
    (after { State.reset with a := 0x0000010000, x0 := 2 } 0x8030).map (fun t => (t.a, t.sr)) = some (0xFFFFFF0000, flags 0x0009) := by decide
theorem test_subAcc : -- R179
    (after { State.reset with a := 0xFF80000000, b := 0x0080000000 } 0x803C).map (fun t => (t.b, t.sr)) = some (0x0100000000, flags 0x0001) := by decide
theorem test_cmp : -- R180
    (after { State.reset with a := 0x0000010000, x0 := 2 } 0x8040).map (fun t => (t.a, t.sr)) = some (0x0000010000, flags 0x0009) := by decide
theorem test_cmpAcc : -- R180
    (after { State.reset with a := 0x7FFFFFFFFF, b := 0xFFFFFFFFFF } 0x8044).map (fun t => (t.a, t.sr)) = some (0x7FFFFFFFFF, flags 0x000B) := by decide
theorem test_and : -- R181
    (after { State.reset with a := 0x12F0F05678, x0 := 0x0FF0, sr := flags 3 } 0x8050).map (fun t => (t.a, t.sr)) = some (0x1200F05678, flags 0x0001) := by decide
theorem test_tfrData : -- R184
    (after { State.reset with x0 := 0x8000, a := 0x1234567890, sr := flags 0x000F } 0x8054).map (fun t => (t.a, t.sr)) = some (0xFF80000000, flags 0x000F) := by decide
theorem test_or : -- R182
    (after { State.reset with a := 0x0000010000, y0 := 0x8000 } 0x8062).map (fun t => (t.a, t.sr)) = some (0x0080010000, flags 0x0008) := by decide
theorem test_tfrAddr : -- R125
    (after { State.reset with r0 := 0x0100, xmem := word 0x0100 0x1234 } 0xC064).map (fun t => (t.x0, t.a, t.r0)) = some (0x1234, 0x0001000000, 0x0101) := by decide
theorem test_eor : -- R183
    (after { State.reset with a := 0x00AAAA0000, x1 := 0x5555, sr := flags 2 } 0x8071).map (fun t => (t.a, t.sr)) = some (0x00FFFF0000, flags 0x0008) := by decide
theorem test_mpy : -- R204
    (after { State.reset with x0 := 0x8000, y0 := 0x8000 } 0x80C0).map (fun t => (t.a, t.sr)) = some (0xFF80000000, flags 0x0008) := by decide
theorem test_mpyr : -- R205
    (after { State.reset with x0 := 1, y0 := 0x4000 } 0x80D0).map (fun t => (t.a, t.sr)) = some (0, flags 0x0004) := by decide
theorem test_mac : -- R206
    (after { State.reset with x0 := 0x4000, y0 := 0x4000, a := 0x0060000000 } 0xA1A0).map (fun t => (t.x1, t.a)) = some (0x6000, 0x0080000000) := by decide
theorem test_mac_overflow : -- R206
    (after { State.reset with x0 := 0x7FFF, y0 := 0x7FFF, a := 0x8000000000 } 0x80E0).map (fun t => (t.a, t.sr)) = some (0x7F8001FFFE, flags 0x0002) := by decide
theorem test_macr : -- R207
    (after { State.reset with x0 := 0x7FFF, y0 := 0x7FFF, a := 0x7FFFFF0000 } 0x80B0).map (fun t => (t.a, t.sr)) = some (0x807FFD0000, flags 0x000A) := by decide
theorem test_dualread : -- R148, R204
    (after { State.reset with r0 := 0x0100, r3 := 0x0200, x0 := 2, y0 := 5, xmem := twoWords 0x0100 0x1111 0x0200 0x2222 } 0x4000).map (fun t => (t.a, t.x0, t.y0)) = some (0x14, 0x1111, 0x2222) := by decide
theorem test_dualreg : -- R149
    (after { State.reset with x0 := 0x1000, x1 := 0x2000, y0 := 0x3000, a := 0x0012345678 } 0x6280).map (fun t => (t.x1, t.y0, t.a)) = some (0x1000, 0x1234, 0x0006000000) := by decide
theorem test_mpyrD : -- R205
    (after { State.reset with x0 := 3, y0 := 0x4000 } 0x4008).map (fun t => (t.a, t.sr)) = some (0x0000020000, flags 0) := by decide
theorem test_macD : -- R148
    (after { State.reset with r0 := 0x0100, r3 := 0x0200, n3 := 0xFFFF, x0 := 0x4000, y0 := 0x2000, a := 0x0000010000, xmem := twoWords 0x0100 0x1111 0x0200 0x2222 } 0x4590).map (fun t => (t.a, t.y0, t.r0, t.r3)) = some (0x0010010000, 0x2222, 0x0101, 0x01FF) := by decide
theorem test_macD_slot2_last : -- R149
    (after { State.reset with x0 := 0x1000, b := 0x0055550000, y1 := 7 } 0x67D4).map (fun t => (t.y1, t.b)) = some (0x5555, 0x0055550000) := by decide
theorem test_macrD : -- R207
    (after { State.reset with x0 := 1, y0 := 0x4000, a := 0x0000010000 } 0x4018).map (fun t => (t.a, t.sr)) = some (0x0000020000, flags 0) := by decide
theorem test_nop : -- R162
    (after { State.reset with sr := flags 0x000F } 0x0000).map (fun t => (t.pc, t.sr)) = some (1, flags 0x000F) := by decide
theorem test_enddo : -- R249
    (after { State.reset with pc := 0x0105, la := 0x0101, lc := 7 } 0x0001).map (fun t => (t.sr, t.pc, t.la, t.lc)) = some (flags 0x0010, 0x0106, 0x0101, 7) := by decide
theorem test_enddo_pop : -- R249
    (after { State.reset with lsp := 2, la := 0x0101, lc := 7, ls := LoopStack.reset.set 1 ⟨0x3333, 0x4444⟩ } 0x0001).map (fun t => (t.la, t.lc, t.lsp)) = some (0x3333, 0x4444, 1) := by decide
theorem test_next : -- R248
    (after { State.reset with pc := 0x0105, la := 0x0101, lc := 0, lsp := 1 } 0x0002).map (fun t => (t.lc, t.pc, t.lsp)) = some (0xFFFF, 0x0101, 1) := by decide
theorem test_next_exit : -- R248
    (after { State.reset with pc := 0x0105, la := 0x0101, lc := 1, lsp := 1, ls := LoopStack.reset.set 0 ⟨0x1111, 0x2222⟩ } 0x0002).map (fun t => (t.la, t.lc, t.lsp, t.pc)) = some (0x1111, 0x2222, 0, 0x0106) := by decide
theorem test_moveReg : -- R220
    (after { State.reset with a := 0x0123456789 } 0x0484).map (fun t => (t.a, t.pc)) = some (0x007FFF0000, 1) := by decide
theorem test_moveReg_ext : -- R220
    (after { State.reset with x0 := 0x1234, a := 0x0011112222 } 0x040A).map (fun t => (t.a, t.x0)) = some (0x3411112222, 0x1234) := by decide
theorem test_moveLoad : -- R221
    (after { State.reset with r0 := 0x0100, xmem := word 0x00FF 0x7777 } 0x0990).map (fun t => (t.r0, t.pc)) = some (0x7777, 1) := by decide
theorem test_moveLoad_postAdd : -- R221
    (after { State.reset with r3 := 0x0010, n3 := 0xFFFE, xmem := word 0x0010 0x3333 } 0x086F).map (fun t => (t.y1, t.r3)) = some (0x3333, 0x000E) := by decide
theorem test_moveLoadDisp : -- R221
    (after { State.reset with r2 := 0x0010, xmem := word 0 0xABCD, a := 0xFF00001111 } 0xFFF0091A).map (fun t => (t.a, t.pc)) = some (0xFFABCD1111, 2) := by decide
theorem test_moveLoadAbs : -- R221
    (after { State.reset with xmem := word 0x1234 0x4321 } 0x1234099C).map (fun t => (t.r0, t.pc)) = some (0x4321, 2) := by decide
theorem test_moveImm : -- R221
    (after State.reset 0xFFFF0A9D).map (fun t => (t.sr, t.pc)) = some (flags 0x001F, 2) := by decide
theorem test_moveStore : -- R222
    (after { State.reset with a := 0xFE00000000 } 0x0D53).map (fun t => (t.memRead 0xFFFF, t.r3)) = some (0xFFFE, 0xFFFF) := by decide
theorem test_moveStore_own_address : -- R222
    (after { State.reset with r0 := 0x0020 } 0x0D84).map (fun t => (t.memRead 0x0020, t.r0)) = some (0x0020, 0x0021) := by decide
theorem test_moveStoreDisp : -- R222
    (after { State.reset with lc := 9, r1 := 0xFFFE } 0x00050EB9).map (fun t => (t.memRead 3, t.pc)) = some (9, 2) := by decide
theorem test_moveStoreAbs : -- R222
    (after { State.reset with a := 0x000000BEEF } 0x80000CDC).map (fun t => (t.memRead 0x8000, t.pc)) = some (0xBEEF, 2) := by decide
theorem test_addi : -- R223
    (after { State.reset with a := 0x7FFFFF0000 } 0x7FFF1000).map (fun t => (t.a, t.sr)) = some (0x807FFE0000, flags 0x000A) := by decide
theorem test_subi : -- R224
    (after { State.reset with b := 0x8000000000 } 0x800010C0).map (fun t => (t.b, t.sr)) = some (0x8080000000, flags 0x0009) := by decide
theorem test_cmpi : -- R225
    (after { State.reset with a := 0x0012340001 } 0x12341100).map (fun t => (t.a, t.sr)) = some (0x0012340001, flags 0) := by decide
theorem test_andi : -- R226
    (after { State.reset with a := 0x12ABCD5678, sr := flags 3 } 0x00FF1180).map (fun t => (t.a, t.sr)) = some (0x1200CD5678, flags 0x0001) := by decide
theorem test_ori : -- R227
    (after { State.reset with b := 0x0000010000 } 0x80001240).map (fun t => (t.b, t.sr)) = some (0x0080010000, flags 0x0008) := by decide
theorem test_eori : -- R228
    (after { State.reset with a := 0x00FFFF0000 } 0xFFFF1280).map (fun t => (t.a, t.sr)) = some (0, flags 0x0004) := by decide
theorem test_andc : -- R229
    (after { State.reset with sr := flags 0x001F } 0x14EF).map (fun t => (t.sr, t.pc)) = some (flags 0x000F, 1) := by decide
theorem test_orc : -- R230
    (after { State.reset with sr := flags 0x0002 } 0x1610).map (fun t => (t.sr, t.pc)) = some (flags 0x0012, 1) := by decide
theorem test_bccShort : -- R242
    (after { State.reset with pc := 0x0100 } 0x20BD).map (fun t => t.pc) = some 0x00FE := by decide
theorem test_bccShort_wraps : -- R242
    (after { State.reset with pc := 0xFFF0 } 0x239F).map (fun t => t.pc) = some 0x0010 := by decide
theorem test_bccLong : -- R243
    (after { State.reset with pc := 0x0100, sr := flags 8 } 0x00102A40).map (fun t => t.pc) = some 0x0112 := by decide
theorem test_bccLong_not_taken : -- R243
    (after { State.reset with pc := 0x0100, sr := flags 0x000A } 0x00102A40).map (fun t => t.pc) = some 0x0102 := by decide
theorem test_jccAbs : -- R244
    (after { State.reset with pc := 0x0100 } 0x12342890).map (fun t => t.pc) = some 0x1234 := by decide
theorem test_jccReg : -- R245
    (after { State.reset with pc := 0x0100, r3 := 0x0042, sr := flags 4 } 0x28E3).map (fun t => t.pc) = some 0x0042 := by decide
theorem test_doImm : -- R246
    (after { State.reset with pc := 0x0010, lsp := 8, la := 0xAAAA, lc := 0xBBBB } 0x2C05).map (fun t => (t.ls.e7, t.lsp, t.sr, t.la, t.lc)) = some (⟨0xAAAA, 0xBBBB⟩, 8, flags 0x0010, 0x0011, 5) := by decide
theorem test_doReg : -- R247
    (after { State.reset with pc := 0x0010, lc := 5, la := 7 } 0x2E15).map (fun t => (t.ls.e0, t.lsp, t.la, t.lc)) = some (⟨7, 5⟩, 1, 0x0011, 5) := by decide
theorem test_btstReg : -- R213
    (after { State.reset with a := 0x8000000000 } 0x3214).map (fun t => (t.sr, t.a)) = some (flags 1, 0x8000000000) := by decide
theorem test_btstMem : -- R213
    (after { State.reset with r1 := 0x0200, xmem := word 0x0200 0x0020 } 0x3143).map (fun t => (t.sr, t.r1)) = some (flags 1, 0x0200) := by decide
theorem test_bsetReg : -- R214
    (after { State.reset with a := 0x0000005678, sr := flags 1 } 0x37D0).map (fun t => (t.a, t.sr)) = some (0x0080005678, flags 0) := by decide
theorem test_bsetMem : -- R214
    (after { State.reset with r1 := 0x0200, xmem := word 0x0200 0x0008 } 0x34C3).map (fun t => (t.memRead 0x0200, t.sr)) = some (8, flags 1) := by decide
theorem test_bclrReg : -- R215
    (after { State.reset with a := 0xFF00000000 } 0x3814).map (fun t => (t.a, t.sr)) = some (0xFE00000000, flags 1) := by decide
theorem test_bclrMem : -- R215
    (after { State.reset with r1 := 0x0200, xmem := word 0x0200 0xFFFF } 0x38C3).map (fun t => (t.memRead 0x0200, t.sr)) = some (0xFFF7, flags 1) := by decide
theorem test_bchgReg : -- R216
    (after { State.reset with la := 0x0080 } 0x3DEC).map (fun t => (t.la, t.sr)) = some (0, flags 1) := by decide
theorem test_bchgMem : -- R216
    (after { State.reset with r3 := 0xFFFF, sr := flags 1 } 0x3FC7).map (fun t => (t.memRead 0xFFFF, t.sr)) = some (0x8000, flags 0) := by decide

/-! ## States and operands that meet the hypotheses of the statements -/

theorem witness_DecodeOfEncode : (Instr.bsetReg 15 .a1).wellFormed = true := by decide

theorem witness_EncodeOfDecode :
    decode 0x8100 (some 0x1234) = .ok (.regmove .x0 .x1) ∧
      decode 0xB000 (some 0xABCD) = .ok (.immload 0xABCD .x0) := by decide

theorem witness_DecodedOpcodesAreWellFormed :
    decode 0x8100 none = .ok (.regmove .x0 .x1) ∧ decode 0x37D0 (some 7) = .ok (.bsetReg 15 .a1) := by decide

theorem witness_StepRunsTheDecodedOpcode :
    let s := State.reset.withFetchWord 16 0x8001
    let s' := State.reset.withFetchWord 32 0xABCDB000
    decode (s.fetch s.pc) none = .ok (.clr .empty .a) ∧
      decode (s'.fetch s'.pc) none = .error ⟨.incompleteFetch, 0xB000⟩ ∧
      decode (s'.fetch s'.pc) (some (s'.fetch (s'.pc + 1))) = .ok (.immload 0xABCD .x0) := by decide

theorem witness_StepRunsThePlacedOpcode :
    let s := State.reset.withFetchWord 32 0xABCDB000
    let i : Instr := .immload 0xABCD .x0
    i.wellFormed = true ∧ s.fetch s.pc = (encode i).1 ∧ (encode i).2 = some (s.fetch (s.pc + 1)) := by decide

theorem witness_StepGoesOnOrStops_stops :
    let s := State.reset.withFetchWord 16 0x8008
    let s' := State.reset.withFetchWord 16 0x0C1D
    decode (s.fetch s.pc) none = .error ⟨.invalidOpcode, 0x8008⟩ ∧
      decode (s'.fetch s'.pc) none = .error ⟨.addressingMode, 0x0C1D⟩ := by decide

theorem witness_StepGoesOnOrStops_goes_on :
    let s := State.reset.withFetchWord 16 0x8001
    let s' := State.reset.withFetchWord 32 0xABCDB000
    (∀ e, decode (s.fetch s.pc) none = .error e → e.name = .incompleteFetch) ∧
      (∀ e, decode (s'.fetch s'.pc) none = .error e → e.name = .incompleteFetch) := by
  refine ⟨fun e h => ?_, fun e h => ?_⟩
  · have ok : decode 0x8001 none = .ok (.clr .empty .a) := by decide
    exact absurd (ok.symm.trans h) (by simp)
  · have err : decode 0xB000 none = .error ⟨.incompleteFetch, 0xB000⟩ := by decide
    cases err.symm.trans h
    rfl

theorem witness_OneWordOpcodeReadsOneWord :
    let s := State.reset.withFetchWord 16 0x8001
    let p : Memory := Memory.writeWord s.pmem 0x0001 0xBEEF
    decode (s.fetch s.pc) none = .ok (.clr .empty .a) ∧ p.readWord s.pc = s.fetch s.pc ∧ p ≠ s.pmem := by
  decide

theorem witness_StepKeepsTheInvariant :
    ({ State.reset with lsp := 8, xmem := word 1 2 }).Inv ∧
      ∃ t, step { State.reset with lsp := 8, xmem := word 1 2 } = .next t :=
  ⟨⟨by decide, by decide, by decide⟩, _, rfl⟩

theorem witness_FlagsOutsideTheSetAreKept :
    (Instr.clr .empty .a).wellFormed = true ∧ Flag.c ∉ flagsModified (.clr .empty .a) ∧
      (Instr.bchgReg 0 .la).wellFormed = true ∧ Flag.se ∉ flagsModified (.bchgReg 0 .la) := by decide

theorem witness_OnlyDestinationsChange :
    (Reg.b ≠ .sr ∧ home .b ∉ (destinations (.clr (.immload 1 .x0) .a)).map home ∧
      home .b ∉ moveRegsOf (.clr (.immload 1 .x0) .a)) := by decide

theorem witness_OnlySourcesAreRead :
    let s : State := { State.reset with x0 := 5 }
    let s' : State := { State.reset with x0 := 5, y1 := 9 }
    hasNoMove (.moveReg .x0 .a) = true ∧ (∀ r ∈ sources (.moveReg .x0 .a), s'.view r = s.view r) ∧
      s'.pc = s.pc ∧ s'.ls = s.ls ∧ s'.lsp = s.lsp ∧ s'.xmem = s.xmem ∧ s' ≠ s := by decide

theorem witness_OnlySourcesAreRead_loop :
    let s : State := { State.reset with lc := 1, la := 7, lsp := 8 }
    let s' : State := { State.reset with lc := 1, la := 7, lsp := 8, x0 := 5 }
    hasNoMove .next = true ∧ usesLoopStack .next = true ∧ (∀ r ∈ sources .next, s'.view r = s.view r) ∧
      s'.pc = s.pc ∧ s'.ls = s.ls ∧ s'.lsp = s.lsp ∧ s'.xmem = s.xmem ∧ s'.sr.se = s.sr.se ∧ s' ≠ s := by decide

theorem witness_OnlySourcesAreRead_empty_stack :
    let s' : State := { State.reset with la := 7 }
    hasNoMove .enddo = true ∧ (∀ r ∈ sources .enddo, s'.view r = State.reset.view r) ∧ State.reset.lsp = 0 ∧
      s'.pc = State.reset.pc ∧ s'.ls = State.reset.ls ∧ s'.lsp = State.reset.lsp ∧
      s'.xmem = State.reset.xmem ∧ s'.la ≠ State.reset.la := by decide

theorem witness_LoopStackIsForLoopsAlone : usesLoopStack (.moveReg .lc .la) = false := by decide

theorem witness_StackErrorIsSticky :
    ({ State.reset with sr := flags 0x10 }).sr.se = true ∧ Reg.sr ∉ destinations (.clr .empty .a) := by decide

theorem witness_PcAdvancesByTheSize :
    overridesPc (.doImm 3) = false ∧ (Instr.moveImm .x0 1).size = 2 := by decide

theorem witness_BusCallsAreTheTable :
    pMoveOf (.clr (.memread .r0 .x0) .a) = some (.memread .r0 .x0) ∧
      dMoveOf (.mpyrD (.dualreg .x0 .x1 .a .y0) .plus .x0y0 .a) = some (.dualreg .x0 .x1 .a .y0) ∧
      (resolve (addrModeOf .preDec .r2) State.reset).ea = some 0xFFFF ∧
      busCalls (.bsetMem 3 .r1) State.reset ≠ [] ∧ pMoveOf (.bsetMem 3 .r1) = none ∧
      dMoveOf (.bsetMem 3 .r1) = none := by decide

theorem witness_DataSpaceChangesByBusWrites :
    (.memWrite 0xFFFF 0 : BusCall) ∈ busCalls (.moveStore .x0 .preDec .r0) State.reset ∧
      (∀ addr v, .memWrite addr v ∈ busCalls (.moveStore .x0 .preDec .r0) State.reset →
        0 ≠ 2 * addr.toNat ∧ 0 ≠ 2 * addr.toNat + 1) := by
  refine ⟨by decide, fun addr v h => ?_⟩
  have e : busCalls (.moveStore .x0 .preDec .r0) State.reset = [.memWrite 0xFFFF 0] := by decide
  rw [e] at h
  simp at h
  obtain ⟨rfl, -⟩ := h
  decide

theorem witness_OnlyTheAnswersMatter :
    let s : State := { State.reset with xmem := word 0 7 }
    (∀ addr, .memRead addr ∈ busCalls (.moveLoad .x0 .indirect .r0) s →
      Memory.readWord (twoWords 0 7 1 9) addr = s.memRead addr) ∧ twoWords 0 7 1 9 ≠ s.xmem := by
  refine ⟨fun addr h => ?_, by decide⟩
  have e : busCalls (.moveLoad .x0 .indirect .r0) { State.reset with xmem := word 0 7 } = [.memRead 0] := by
    decide
  rw [e] at h
  simp at h
  subst h
  decide

theorem witness_AnyAnswersOfTheHost :
    pMoveOf (.clr (.memread .r0 .a) .a) = some (.memread .r0 .a) ∧
      pMoveOf (.absread 7 .x0) = some (.absread 7 .x0) ∧
      dMoveOf (.macrD (.dualread .r0 .indirect .x0 .postAdd .y1) .plus .x0y0 .a) =
        some (.dualread .r0 .indirect .x0 .postAdd .y1) := by decide

theorem witness_ParallelMoveIsDone :
    pMoveOf (.add (.memwrite .a .r3) .x0 .a) = some (.memwrite .a .r3) ∧
      accName .a ∉ moveRegs (.memwrite .a .r3) ∧ accName .a ∈ moveRegs (.memread .r0 .a) := by decide

theorem witness_DualMoveIsDone :
    dMoveOf (.macD (.dualreg .x0 .x1 .a .y0) .plus .x0y0 .b) = some (.dualreg .x0 .x1 .a .y0) ∧
      DataReg.x1 ≠ .y0 := by decide

theorem witness_BitTest : Reg.x0.isBitOperand = true ∧ Reg.la.isBitOperand = true := by decide

theorem witness_BitChangeInARegister :
    Reg.a2.isBitOperand = true ∧ Reg.n3.isBitOperand = true ∧ Reg.lc.isBitOperand = true := by decide

theorem witness_HighBitsOfAnExtension : 8 ≤ (8 : BitVec 4).toNat ∧ 8 ≤ (15 : BitVec 4).toNat := by decide

theorem witness_LoadsIntoARegister :
    Reg.x0 ≠ addrName .r0 ∧ Reg.r1 ≠ addrName .r0 ∧ Reg.r0 = addrName .r0 := by decide

theorem witness_NextAndEnddo_loops_back :
    ({ State.reset with lc := 0 }).lc ≠ 1 ∧ ({ State.reset with lc := 2 }).lc ≠ 1 := by decide

theorem witness_NextAndEnddo_pops :
    ({ State.reset with lc := 1 }).lc = 1 ∧ State.reset.lsp = 0 ∧ 0 < ({ State.reset with lsp := 1 }).lsp := by
  decide

theorem witness_DoOpensALoop :
    State.reset.lsp < 8 ∧ ({ State.reset with lsp := 7 }).lsp < 8 ∧ 8 ≤ ({ State.reset with lsp := 8 }).lsp := by
  decide

theorem witness_DoThenEnddoRestores :
    ((∃ count, Instr.doImm 3 = .doImm count) ∨ (∃ src, Instr.doImm 3 = .doReg src)) ∧
      ((∃ count, Instr.doReg .lc = .doImm count) ∨ (∃ src, Instr.doReg .lc = .doReg src)) ∧
      State.reset.lsp < 8 ∧ ({ State.reset with lsp := 7 }).lsp < 8 :=
  ⟨.inl ⟨3, rfl⟩, .inr ⟨.lc, rfl⟩, by decide, by decide⟩

theorem witness_MoveTextIsInjective :
    moveText (.memread .r0 .x0) = moveText (.memread .r0 .x0) ∧
      moveText (.memread .r0 .x0) ≠ moveText (.memwrite .x0 .r0) := by decide

end Sys2Proof.Machine.Tests
end

section
/-! PROOFS. The state: what each write of an opcode can touch, which flags, loop stack and program counter an
opcode keeps, the pops of the loop stack, and the 16-bit register port (O14, O17, O18, O19, O54, O57). -/

namespace Sys2Proof.Machine

/-! ## Registers and lists of registers -/

@[simp] theorem home_eq_sr_iff (r : Reg) : home r = .sr ↔ r = .sr := by cases r <;> decide

theorem mem_allRegs (r : Reg) : r ∈ allRegs := by cases r <;> decide

/-- The form of R266's sets keeps the members. -/
@[simp] theorem mem_regSet (r : Reg) (l : List Reg) : r ∈ regSet l ↔ r ∈ l := by
  simp [regSet, mem_allRegs]

@[simp] theorem home_accName (d : Acc) : home (accName d) = accName d := by cases d <;> rfl

@[simp] theorem home_highName (d : Acc) : home (highName d) = accName d := by cases d <;> rfl

/-! ## Footprints: what the writes of a half can touch -/

/-- What the writes of a half may touch: registers (`SR` among them where it is written as a word), computed
flags, and the loop stack. A half of an opcode has one by `instrHalfOf_within` and `moveHalfOf_within`. -/
structure Footprint where
  regs : List Reg
  flags : List Flag
  loop : Bool

/-- A flag update sets listed flags alone. -/
def FlagUpdate.Within (u : FlagUpdate) (flags : List Flag) : Prop :=
  (u.c.isSome → .c ∈ flags) ∧ (u.v.isSome → .v ∈ flags) ∧ (u.z.isSome → .z ∈ flags)
    ∧ (u.n.isSome → .n ∈ flags)

/-- A write stays inside a footprint; memory is no part of it. -/
def Write.Within (fp : Footprint) : Write → Prop
  | .reg c _ => home c ∈ fp.regs.map home
  | .acc d _ => accName d ∈ fp.regs
  | .mem _ _ => True
  | .push _ _ => fp.loop = true
  | .pop => fp.loop = true ∧ .la ∈ fp.regs ∧ .lc ∈ fp.regs
  | .flags u => u.Within fp.flags

/-- Every write of a half, for any answers of the host, stays inside a footprint. -/
def Half.Within (fp : Footprint) (h : Half) : Prop := ∀ ans, ∀ w ∈ h.writes ans, w.Within fp

/-- The footprint the peek accessors give an instruction (rules R34, R266). -/
def instrFootprint (i : Instr) : Footprint := ⟨destinationList i, flagsModified i, usesLoopStack i⟩

/-- The footprint of the parallel move of an opcode: registers alone. -/
def moveFootprint (i : Instr) : Footprint := ⟨moveRegsOf i, [], false⟩

/-! ### What a write inside a footprint keeps -/

/-- A flag update keeps the flags it may not set, and `SE` always. -/
theorem FlagUpdate.Within.apply_get {u : FlagUpdate} {flags : List Flag} (hu : u.Within flags) (g : Status)
    {f : Flag} (hf : f ∉ flags) : (u.apply g).get f = g.get f := by
  obtain ⟨hc, hv, hz, hn⟩ := hu
  cases f with
  | c => simp [FlagUpdate.apply, Status.get, show u.c = none by simpa using mt hc hf]
  | v => simp [FlagUpdate.apply, Status.get, show u.v = none by simpa using mt hv hf]
  | z => simp [FlagUpdate.apply, Status.get, show u.z = none by simpa using mt hz hf]
  | n => simp [FlagUpdate.apply, Status.get, show u.n = none by simpa using mt hn hf]
  | se => rfl

/-- A register write inside a footprint without `SR` leaves `SR` alone. -/
theorem Write.Within.setReg16_sr_eq {fp : Footprint} {c : Reg} {v : Word} (h : (Write.reg c v).Within fp)
    (hsr : .sr ∉ fp.regs) (s : State) : (s.setReg16 c v).sr = s.sr := by
  have hc : c ≠ .sr := by
    rintro rfl
    obtain ⟨r, hr, hrsr⟩ := List.mem_map.1 h
    exact hsr ((home_eq_sr_iff r).1 hrsr ▸ hr)
  rw [setReg16_sr, if_neg hc]

/-- A push touches no flag but `SE`, which it can only set (rules R30, R34). -/
theorem pushLoop_sr (s : State) (la lc : Word) :
    (s.pushLoop la lc).sr = s.sr ∨ (s.pushLoop la lc).sr = { s.sr with se := true } := by
  rcases pushLoop_cases s la lc with ⟨-, e⟩ | ⟨-, e⟩
  · exact .inl (by simp [e])
  · exact .inr (by simp [e])

/-- A pop touches no flag but `SE`, which it can only set (rules R30, R35). -/
theorem popLoop_sr (s : State) : s.popLoop.sr = s.sr ∨ s.popLoop.sr = { s.sr with se := true } := by
  rcases popLoop_cases s with ⟨-, e⟩ | ⟨-, e⟩
  · exact .inr (by simp [e])
  · exact .inl (by simp [e])

/-- Setting `SE` keeps every other flag. -/
theorem Status.get_of_se_set {f g : Status} (h : g = f ∨ g = { f with se := true }) {k : Flag}
    (hk : k ≠ .se) : g.get k = f.get k := by
  rcases h with rfl | rfl
  · rfl
  · cases k with
    | se => exact absurd rfl hk
    | c | v | z | n => rfl

/-- Setting or keeping `SE` leaves a set `SE` set. -/
theorem Status.se_of_se_set {f g : Status} (h : g = f ∨ g = { f with se := true }) (hf : f.se = true) :
    g.se = true := by
  rcases h with rfl | rfl
  · exact hf
  · rfl

/-- A write keeps a flag outside its footprint, where `SR` is not written as a word. -/
theorem Write.Within.keeps_flag {fp : Footprint} {w : Write} (h : w.Within fp) {f : Flag}
    (hsr : .sr ∉ fp.regs) (hf : f ∉ fp.flags) (hse : fp.loop = true → f ≠ .se) (s : State) :
    (w.apply s).sr.get f = s.sr.get f := by
  cases w with
  | reg c v => exact congrArg (Status.get · f) (h.setReg16_sr_eq hsr s)
  | acc d v => simp [Write.apply]
  | mem addr v => rfl
  | push la lc => exact Status.get_of_se_set (pushLoop_sr s la lc) (hse h)
  | pop => exact Status.get_of_se_set (popLoop_sr s) (hse h.1)
  | flags u => exact FlagUpdate.Within.apply_get h s.sr hf

/-- A write keeps a set `SE` set, where `SR` is not written as a word (rule R30). -/
theorem Write.Within.keeps_se {fp : Footprint} {w : Write} (h : w.Within fp) (hsr : .sr ∉ fp.regs) (s : State)
    (hs : s.sr.se = true) : (w.apply s).sr.se = true := by
  cases w with
  | reg c v => exact (congrArg Status.se (h.setReg16_sr_eq hsr s)).trans hs
  | acc d v => simpa [Write.apply] using hs
  | mem addr v => exact hs
  | push la lc => exact Status.se_of_se_set (pushLoop_sr s la lc) hs
  | pop => exact Status.se_of_se_set (popLoop_sr s) hs
  | flags u => exact hs

/-! ### Lists of writes and evaluations -/

/-- A property that every write of a list keeps is kept by the list. -/
theorem applyWrites_keeps_of_mem {P : State → Prop} {ws : List Write}
    (hP : ∀ w ∈ ws, ∀ s, P s → P (w.apply s)) {s : State} (h : P s) : P (applyWrites ws s) := by
  induction ws generalizing s with
  | nil => exact h
  | cons w ws ih =>
    exact ih (fun w' hw' => hP w' (List.mem_cons_of_mem w hw')) (hP w List.mem_cons_self s h)

/-- A property of `SR` that every write of both halves keeps is kept by an evaluation. -/
theorem evaluateWith_keeps_sr {Q : Status → Prop} {mv ins : Half}
    (hmv : ∀ ans, ∀ w ∈ mv.writes ans, ∀ s, Q s.sr → Q (w.apply s).sr)
    (hins : ∀ ans, ∀ w ∈ ins.writes ans, ∀ s, Q s.sr → Q (w.apply s).sr)
    (size : Nat) (ma ia : List Word) {s : State} (h : Q s.sr) :
    Q (evaluateWith size mv ins ma ia s).sr := by
  have h1 : Q (applyUpdates (mv.updates ++ ins.updates) s).sr := by simpa using h
  have h2 := applyWrites_keeps_of_mem (P := fun t => Q t.sr) (hins ia) h1
  exact applyWrites_keeps_of_mem (P := fun t => Q t.sr) (hmv ma) h2

/-! ## The footprint of every half -/

/-- An update that leaves the carry alone. -/
theorem FlagUpdate.within_of_c_none {u : FlagUpdate} (h : u.c = none) : u.Within [.v, .z, .n] := by
  simp [FlagUpdate.Within, h]

theorem allFlags_within (u : FlagUpdate) : u.Within [.c, .v, .z, .n] := by
  simp [FlagUpdate.Within]

theorem bitFlag_within (bit : BitVec 4) (v : Word) : (bitFlag bit v).Within [.c] := by
  simp [FlagUpdate.Within, bitFlag]

theorem accResult_within (d : Acc) (r : Wide) {u : FlagUpdate} {fl : List Flag} (hu : u.Within fl) :
    (accResult d r u).Within ⟨[accName d], fl, false⟩ := by
  intro ans w hw
  obtain rfl | rfl : w = .acc d r ∨ w = .flags u := by simpa [accResult] using hw
  · exact List.mem_singleton_self _
  · exact hu

theorem highResult_within (d : Acc) (x : Word) {u : FlagUpdate} {fl : List Flag} (hu : u.Within fl) :
    (highResult d x u).Within ⟨[accName d], fl, false⟩ := by
  intro ans w hw
  obtain rfl | rfl : w = .reg (highName d) x ∨ w = .flags u := by simpa [highResult] using hw
  · simp [Write.Within]
  · exact hu

theorem flagResult_within {u : FlagUpdate} {fl : List Flag} (hu : u.Within fl) :
    (flagResult u).Within ⟨[], fl, false⟩ := by
  intro ans w hw
  obtain rfl : w = .flags u := by simpa [flagResult] using hw
  exact hu

/-- A half that writes nothing has every footprint. -/
theorem Half.within_of_no_writes {h : Half} (hw : ∀ ans, h.writes ans = []) (fp : Footprint) :
    h.Within fp := by
  intro ans w hm
  simp [hw] at hm

/-- A half whose writes are one write of an accumulator. -/
theorem Half.within_of_acc {h : Half} {d : Acc} {v : Wide} (hw : ∀ ans, h.writes ans = [.acc d v]) :
    h.Within ⟨[accName d], [], false⟩ := by
  intro ans w hm
  obtain rfl : w = .acc d v := by simpa [hw] using hm
  exact List.mem_singleton_self _

/-- A half whose writes are one write through the register port. -/
theorem Half.within_of_reg {h : Half} {c : Reg} {v : List Word → Word} {fp : Footprint}
    (hw : ∀ ans, h.writes ans = [.reg c (v ans)]) (hc : c ∈ fp.regs) : h.Within fp := by
  intro ans w hm
  obtain rfl : w = .reg c (v ans) := by simpa [hw] using hm
  exact List.mem_map_of_mem hc

/-- A half that writes memory alone has every footprint. -/
theorem Half.within_of_mem {h : Half} {eas : List Word} {v : Word}
    (hw : ∀ ans, h.writes ans = eas.map fun ea => .mem ea v) (fp : Footprint) : h.Within fp := by
  intro ans w hm
  obtain ⟨ea, -, rfl⟩ : ∃ ea ∈ eas, Write.mem ea v = w := by simpa [hw] using hm
  trivial

/-- A load writes its destination alone, with the word read or the immediate (rule R221). -/
theorem loadHalf_writes (dst : Reg) (mode : AddrMode) (s : State) :
    ∃ v : List Word → Word, ∀ ans, (loadHalf dst mode s).writes ans = [.reg dst (v ans)] := by
  cases mode with
  | immediate imm => exact ⟨fun _ => imm, fun _ => rfl⟩
  | _ => exact ⟨fun ans => answer ans 0, fun _ => rfl⟩

theorem loadHalf_within (dst : Reg) (mode : AddrMode) (s : State) {regs : List Reg} {fl : List Flag}
    {loop : Bool} : (loadHalf dst mode s).Within ⟨dst :: regs, fl, loop⟩ := by
  obtain ⟨v, hv⟩ := loadHalf_writes dst mode s
  exact Half.within_of_reg hv List.mem_cons_self

theorem storeHalf_within (src : Reg) (mode : AddrMode) (s : State) (fp : Footprint) :
    (storeHalf src mode s).Within fp :=
  Half.within_of_mem (fun _ => rfl) fp

theorem bitRegHalf_within (f : Word → Word) (bit : BitVec 4) (r : Reg) (s : State) :
    (bitRegHalf f bit r s).Within ⟨[r], [.c], false⟩ := by
  intro ans w hw
  obtain rfl | rfl : w = .reg r (f (s.reg16 r)) ∨ w = .flags (bitFlag bit (s.reg16 r)) := by
    simpa [bitRegHalf] using hw
  · exact List.mem_map_of_mem (List.mem_singleton_self r)
  · exact bitFlag_within bit _

theorem bitMemHalf_within (f : Word → Word) (bit : BitVec 4) (rn : AddrReg) (s : State) :
    (bitMemHalf f bit rn s).Within ⟨[], [.c], false⟩ := by
  intro ans w hw
  obtain rfl | rfl : w = .mem (s.addr rn) (f (answer ans 0)) ∨ w = .flags (bitFlag bit (answer ans 0)) := by
    simpa [bitMemHalf] using hw
  · trivial
  · exact bitFlag_within bit _

theorem btstMemHalf_within (bit : BitVec 4) (rn : AddrReg) (s : State) :
    (btstMemHalf bit rn s).Within ⟨[], [.c], false⟩ := by
  intro ans w hw
  obtain rfl : w = .flags (bitFlag bit (answer ans 0)) := by simpa [btstMemHalf] using hw
  exact bitFlag_within bit _

theorem doHalf_within (count : Word) (s : State) {fl : List Flag} :
    (doHalf count s).Within ⟨[.lc, .la], fl, true⟩ := by
  intro ans w hw
  obtain rfl | rfl | rfl : w = .reg .la (s.pc + 1) ∨ w = .reg .lc count ∨ w = .push s.la s.lc := by
    simpa [doHalf] using hw
  · exact List.mem_map_of_mem (by simp)
  · exact List.mem_map_of_mem (by simp)
  · rfl

theorem enddoHalf_within {fl : List Flag} : enddoHalf.Within ⟨[.lc, .la], fl, true⟩ := by
  intro ans w hw
  obtain rfl : w = .pop := by simpa [enddoHalf] using hw
  exact ⟨rfl, List.mem_cons_of_mem _ List.mem_cons_self, List.mem_cons_self⟩

/-- `NEXT` on the last iteration: it pops (rule R248). -/
theorem nextHalf_of_eq_one {s : State} (h : s.lc = 1) : nextHalf s = enddoHalf := by
  simp [nextHalf, enddoHalf, h]

/-- `NEXT` on any other iteration: it counts down and loops back (rule R248). -/
theorem nextHalf_of_ne_one {s : State} (h : s.lc ≠ 1) :
    nextHalf s = { writes := fun _ => [.reg .lc (s.lc - 1)], target := some s.la } := by
  have h' : ¬ s.lc - 1 = 0 := fun e => h (sub_eq_zero.1 e)
  rw [nextHalf, if_neg h']

theorem nextHalf_within (s : State) {fl : List Flag} : (nextHalf s).Within ⟨[.lc, .la], fl, true⟩ := by
  by_cases h : s.lc = 1
  · exact nextHalf_of_eq_one h ▸ enddoHalf_within
  · rw [nextHalf_of_ne_one h]
    exact Half.within_of_reg (fun _ => rfl) List.mem_cons_self

/-- The instruction half of every opcode stays inside what the peek accessors name (rules R34, R266). -/
theorem instrHalfOf_within (i : Instr) (s : State) : (instrHalfOf i s).Within (instrFootprint i) := by
  cases i with
  | empty | regmove | immload | absread | abswrite | memread | memwrite | nop
  | bccShort | bccLong | jccAbs | jccReg => exact Half.within_of_no_writes (fun _ => rfl) _
  | clr | abs | rnd | mpy | mpyr | mac | macr | dualread | dualreg | mpyrD | macD | macrD =>
    exact accResult_within _ _ (FlagUpdate.within_of_c_none rfl)
  | neg | asl | asr | inc | dec | add | addAcc | sub | subAcc | addi | subi =>
    exact accResult_within _ _ (allFlags_within _)
  | not | and | or | eor | andi | ori | eori => exact highResult_within _ _ (FlagUpdate.within_of_c_none rfl)
  | lsl | lsr | rol | ror => exact highResult_within _ _ (allFlags_within _)
  | tst => exact flagResult_within (FlagUpdate.within_of_c_none rfl)
  | cmp | cmpAcc | cmpi => exact flagResult_within (allFlags_within _)
  | tfrAcc | tfrData | tfrAddr => exact Half.within_of_acc fun _ => rfl
  | enddo => exact enddoHalf_within
  | next => exact nextHalf_within s
  | moveReg | andc | orc => exact Half.within_of_reg (fun _ => rfl) List.mem_cons_self
  | moveLoad dst mode rn => exact loadHalf_within dst (addrModeOf mode rn) s
  | moveLoadDisp dst rn disp => exact loadHalf_within dst (.displaced rn disp) s
  | moveLoadAbs dst addr => exact loadHalf_within dst (.absolute addr) s
  | moveImm dst imm => exact loadHalf_within dst (.immediate imm) s
  | moveStore | moveStoreDisp | moveStoreAbs => exact storeHalf_within _ _ s _
  | doImm | doReg => exact doHalf_within _ s
  | btstReg bit r => exact flagResult_within (bitFlag_within bit (s.reg16 r))
  | btstMem bit rn => exact btstMemHalf_within bit rn s
  | bsetReg bit r => exact bitRegHalf_within (setBit bit) bit r s
  | bclrReg bit r => exact bitRegHalf_within (clearBit bit) bit r s
  | bchgReg bit r => exact bitRegHalf_within (changeBit bit) bit r s
  | bsetMem bit rn => exact bitMemHalf_within (setBit bit) bit rn s
  | bclrMem bit rn => exact bitMemHalf_within (clearBit bit) bit rn s
  | bchgMem bit rn => exact bitMemHalf_within (changeBit bit) bit rn s

/-- A format P move writes its destination or memory. -/
theorem moveHalf_within (m : PMove) (s : State) {fl : List Flag} {loop : Bool} :
    (moveHalf m s).Within ⟨moveRegs m, fl, loop⟩ := by
  cases m with
  | empty => exact Half.within_of_no_writes (fun _ => rfl) _
  | regmove | immload | absread | memread => exact Half.within_of_reg (fun _ => rfl) List.mem_cons_self
  | abswrite src addr => exact Half.within_of_mem (eas := [addr]) (fun _ => rfl) _
  | memwrite => exact Half.within_of_mem (fun _ => rfl) _

/-- A format D move writes its two destinations. -/
theorem dualHalf_within (m : DMove) (s : State) {fl : List Flag} {loop : Bool} :
    (dualHalf m s).Within ⟨dualRegs m, fl, loop⟩ := by
  intro ans w hw
  cases m with
  | dualread base mode1 dst1 mode2 dst2 =>
    obtain rfl | rfl : w = .reg (xName dst1) (answer ans 0) ∨ w = .reg (yName dst2) (answer ans 1) := by
      simpa [dualHalf] using hw
    · exact List.mem_map_of_mem (by simp [dualRegs])
    · exact List.mem_map_of_mem (by simp [dualRegs])
  | dualreg src1 dst1 src2 dst2 =>
    obtain rfl | rfl : w = .reg (dataName dst1) (s.reg16 (dataName src1)) ∨
        w = .reg (dataName dst2) (s.reg16 (accName src2)) := by
      simpa [dualHalf] using hw
    · exact List.mem_map_of_mem (by simp [dualRegs])
    · exact List.mem_map_of_mem (by simp [dualRegs])

/-- The move half of an opcode is that of its format P move, of its format D move, or empty. -/
theorem moveHalfOf_cases (i : Instr) (s : State) :
    (∃ m, pMoveOf i = some m ∧ moveHalfOf i s = moveHalf m s) ∨
    (∃ m, pMoveOf i = none ∧ dMoveOf i = some m ∧ moveHalfOf i s = dualHalf m s) ∨
    (pMoveOf i = none ∧ dMoveOf i = none ∧ moveHalfOf i s = emptyHalf) := by
  cases i with
  | empty | regmove | immload | absread | abswrite | memread | memwrite
  | clr | tst | abs | neg | not | rnd | tfrAcc | asl | asr | lsl | lsr | rol | ror | inc | dec
  | add | addAcc | sub | subAcc | cmp | cmpAcc | and | tfrData | or | tfrAddr | eor
  | mpy | mpyr | mac | macr => exact .inl ⟨_, rfl, rfl⟩
  | dualread | dualreg | mpyrD | macD | macrD => exact .inr (.inl ⟨_, rfl, rfl, rfl⟩)
  | _ => exact .inr (.inr ⟨rfl, rfl, rfl⟩)

/-- The move half of every opcode writes the move's registers and memory alone. -/
theorem moveHalfOf_within (i : Instr) (s : State) : (moveHalfOf i s).Within (moveFootprint i) := by
  rcases moveHalfOf_cases i s with ⟨m, hp, e⟩ | ⟨m, hp, hd, e⟩ | ⟨hp, hd, e⟩
  · rw [e, moveFootprint, moveRegsOf, hp]
    exact moveHalf_within m s
  · rw [e, moveFootprint, moveRegsOf, hp, hd]
    exact dualHalf_within m s
  · rw [e]
    exact Half.within_of_no_writes (fun _ => rfl) _

/-! ## `SR` and the parallel move -/

@[simp] theorem sr_ne_moveName (r : MoveReg) : Reg.sr ≠ moveName r := by cases r <;> decide

@[simp] theorem sr_ne_addrName (r : AddrReg) : Reg.sr ≠ addrName r := by cases r <;> decide

@[simp] theorem sr_ne_dataName (r : DataReg) : Reg.sr ≠ dataName r := by cases r <;> decide

@[simp] theorem sr_ne_xName (r : XReg) : Reg.sr ≠ xName r := by cases r <;> decide

@[simp] theorem sr_ne_yName (r : YReg) : Reg.sr ≠ yName r := by cases r <;> decide

@[simp] theorem sr_ne_accName (d : Acc) : Reg.sr ≠ accName d := by cases d <;> decide

@[simp] theorem sr_not_mem_modeUpdates (mode : Mode) (rn : AddrReg) : Reg.sr ∉ modeUpdates mode rn := by
  cases mode <;> simp [modeUpdates]

theorem sr_not_mem_moveRegs (m : PMove) : Reg.sr ∉ moveRegs m := by
  cases m <;> simp [moveRegs]

theorem sr_not_mem_dualRegs (m : DMove) : Reg.sr ∉ dualRegs m := by
  cases m <;> simp [dualRegs]

/-- No parallel move writes `SR` (rules R84, R88, R89). -/
theorem sr_not_mem_moveRegsOf (i : Instr) : Reg.sr ∉ moveRegsOf i := by
  unfold moveRegsOf
  split
  · exact sr_not_mem_moveRegs _
  · exact sr_not_mem_dualRegs _
  · exact List.not_mem_nil

theorem mem_allFlags (f : Flag) : f ∈ [Flag.c, .v, .z, .n, .se] := by cases f <;> decide

/-- An opcode with `SR` as a destination modifies every flag (rule R266). -/
theorem mem_flagsModified_of_sr_mem {i : Instr} (hi : i.wellFormed = true) (h : Reg.sr ∈ destinationList i)
    (f : Flag) : f ∈ flagsModified i := by
  cases i with
  | andc | orc => exact mem_allFlags f
  | moveReg | moveLoad | moveLoadDisp | moveLoadAbs | moveImm =>
    simp only [destinationList, List.mem_cons, sr_not_mem_modeUpdates, List.not_mem_nil, or_false] at h
    rw [flagsModified, if_pos h.symm]
    exact mem_allFlags f
  | bsetReg | bclrReg | bchgReg =>
    obtain rfl : Reg.sr = _ := List.mem_singleton.1 h
    cases hi
  | _ => simp [destinationList] at h

/-- A loop opcode modifies `SE` (rules R30, R34). -/
theorem se_mem_flagsModified_of_loop {i : Instr} (h : usesLoopStack i = true) : Flag.se ∈ flagsModified i := by
  cases i with
  | enddo | next | doImm | doReg => exact List.mem_singleton_self _
  | _ => cases h

/-- Settles O14: both halves of an opcode stay inside their footprints, and no write inside them reaches a flag
that is not listed. -/
theorem flagsOutsideTheSetAreKept : Obligations.FlagsOutsideTheSetAreKept := by
  intro i s hi
  refine ⟨_, exec_eq_evaluateOpcode i s, fun f hf => ?_⟩
  have hsr : Reg.sr ∉ destinationList i := fun h => hf (mem_flagsModified_of_sr_mem hi h f)
  have hse : usesLoopStack i = true → f ≠ .se := fun h e => hf (e ▸ se_mem_flagsModified_of_loop h)
  have hins : ∀ ans, ∀ w ∈ (instrHalfOf i s).writes ans, ∀ t : State,
      t.sr.get f = s.sr.get f → (w.apply t).sr.get f = s.sr.get f := fun ans w hw t ht =>
    ((instrHalfOf_within i s ans w hw).keeps_flag hsr hf hse t).trans ht
  have hmv : ∀ ans, ∀ w ∈ (moveHalfOf i s).writes ans, ∀ t : State,
      t.sr.get f = s.sr.get f → (w.apply t).sr.get f = s.sr.get f := fun ans w hw t ht =>
    ((moveHalfOf_within i s ans w hw).keeps_flag (sr_not_mem_moveRegsOf i) List.not_mem_nil (nofun) t).trans ht
  exact evaluateWith_keeps_sr (Q := fun g => g.get f = s.sr.get f) hmv hins _ _ _ rfl

/-- Settles O18: no write of an opcode clears `SE`, but one of `SR` as a word. -/
theorem stackErrorIsSticky : Obligations.StackErrorIsSticky := by
  intro i s hs hd
  refine ⟨_, exec_eq_evaluateOpcode i s, ?_⟩
  have hsr : Reg.sr ∉ destinationList i := fun h => hd ((mem_regSet _ _).2 h)
  exact evaluateWith_keeps_sr (Q := fun g => g.se = true)
    (fun ans w hw t => (moveHalfOf_within i s ans w hw).keeps_se (sr_not_mem_moveRegsOf i) t)
    (fun ans w hw t => (instrHalfOf_within i s ans w hw).keeps_se hsr t) _ _ _ hs

/-! ## The loop stack as part of the state (O17) -/

/-! No half is computed from the loop stack: with another one it is the same by definition. -/

theorem moveHalfOf_setLoop (i : Instr) (s : State) (ls : LoopStack) (n : Nat) :
    moveHalfOf i (s.setLoop ls n) = moveHalfOf i s := by
  cases i <;> rfl

theorem instrHalfOf_setLoop (i : Instr) (s : State) (ls : LoopStack) (n : Nat) :
    instrHalfOf i (s.setLoop ls n) = instrHalfOf i s := by
  cases i <;> rfl

theorem setReg16_setLoop (s : State) (ls : LoopStack) (n : Nat) (r : Reg) (v : Word) :
    (s.setLoop ls n).setReg16 r v = (s.setReg16 r v).setLoop ls n := by cases r <;> rfl

theorem setAcc_setLoop (s : State) (ls : LoopStack) (n : Nat) (d : Acc) (v : Wide) :
    (s.setLoop ls n).setAcc d v = (s.setAcc d v).setLoop ls n := by cases d <;> rfl

theorem setAddr_setLoop (s : State) (ls : LoopStack) (n : Nat) (r : AddrReg) (v : Word) :
    (s.setLoop ls n).setAddr r v = (s.setAddr r v).setLoop ls n := by cases r <;> rfl

/-- A write that is no push and no pop neither reads nor changes the loop stack. -/
theorem Write.Within.apply_setLoop {fp : Footprint} {w : Write} (h : w.Within fp) (hl : fp.loop = false)
    (s : State) (ls : LoopStack) (n : Nat) : w.apply (s.setLoop ls n) = (w.apply s).setLoop ls n := by
  cases w with
  | reg c v => exact setReg16_setLoop s ls n c v
  | acc d v => exact setAcc_setLoop s ls n d v
  | mem addr v => rfl
  | push la lc => exact absurd (h.symm.trans hl) (by decide)
  | pop => exact absurd (h.1.symm.trans hl) (by decide)
  | flags u => rfl

theorem applyWrites_setLoop {ws : List Write}
    (h : ∀ w ∈ ws, ∀ (s : State) (ls : LoopStack) (n : Nat), w.apply (s.setLoop ls n) = (w.apply s).setLoop ls n)
    (s : State) (ls : LoopStack) (n : Nat) :
    applyWrites ws (s.setLoop ls n) = (applyWrites ws s).setLoop ls n := by
  induction ws generalizing s with
  | nil => rfl
  | cons w ws ih =>
    rw [applyWrites_cons, h w List.mem_cons_self, ih fun w' hw' => h w' (List.mem_cons_of_mem w hw')]
    rfl

theorem applyUpdates_setLoop (us : List Update) (s : State) (ls : LoopStack) (n : Nat) :
    applyUpdates us (s.setLoop ls n) = (applyUpdates us s).setLoop ls n := by
  induction us generalizing s with
  | nil => rfl
  | cons u us ih => rw [applyUpdates_cons, setAddr_setLoop, ih, applyUpdates_cons]

/-- The evaluation of an opcode that is no loop opcode goes through with any loop stack (rule R34). -/
theorem evaluateOpcode_setLoop {i : Instr} (hi : usesLoopStack i = false) (ma ia : List Word) (s : State)
    (ls : LoopStack) (n : Nat) :
    evaluateOpcode i ma ia (s.setLoop ls n) = (evaluateOpcode i ma ia s).setLoop ls n := by
  have hins := applyWrites_setLoop fun w hw => (instrHalfOf_within i s ia w hw).apply_setLoop hi
  have hmv := applyWrites_setLoop fun w hw => (moveHalfOf_within i s ma w hw).apply_setLoop rfl
  simp only [evaluateOpcode, evaluateWith, moveHalfOf_setLoop, instrHalfOf_setLoop, applyUpdates_setLoop, hins,
    hmv]
  rfl

theorem exec_setLoop {i : Instr} (hi : usesLoopStack i = false) (s : State) :
    ∃ t, exec i s = .next t ∧
      ∀ (ls : LoopStack) (n : Nat), exec i (s.setLoop ls n) = .next (t.setLoop ls n) := by
  refine ⟨_, exec_eq_evaluateOpcode i s, fun ls n => ?_⟩
  rw [exec_eq_evaluateOpcode, moveHalfOf_setLoop, instrHalfOf_setLoop, evaluateOpcode_setLoop hi]
  rfl

/-- Settles O17: an evaluation without push and pop commutes with replacing the loop stack; replacing it by itself
shows that it is kept. -/
theorem loopStackIsForLoopsAlone : Obligations.LoopStackIsForLoopsAlone := by
  intro i s ls n hi
  obtain ⟨t, ht, hset⟩ := exec_setLoop hi s
  have hself : t = t.setLoop s.ls s.lsp := Host.Outcome.next.inj (ht.symm.trans (hset s.ls s.lsp))
  exact ⟨t, ht, (congrArg State.ls hself :), (congrArg State.lsp hself :), hset ls n⟩

/-! ## The program counter (O19) -/

theorem loadHalf_target (dst : Reg) (mode : AddrMode) (s : State) : (loadHalf dst mode s).target = none := by
  cases mode <;> rfl

/-- Only a branch, a jump or `NEXT` overrides the program counter (rule R240). -/
theorem instrHalfOf_target {i : Instr} (h : overridesPc i = false) (s : State) :
    (instrHalfOf i s).target = none := by
  cases i with
  | bccShort | bccLong | jccAbs | jccReg | next => cases h
  | moveLoad | moveLoadDisp | moveLoadAbs | moveImm => exact loadHalf_target _ _ s
  | _ => rfl

/-- Settles O19: without an override the evaluation leaves `pc` at the next opcode. -/
theorem pcAdvancesByTheSize : Obligations.PcAdvancesByTheSize := by
  intro i s hi
  refine ⟨_, exec_eq_evaluateOpcode i s, ?_⟩
  rw [evaluateOpcode, evaluateWith_pc, instrHalfOf_target hi, Option.getD_none, BitVec.toNat_add,
    BitVec.toNat_ofNat, Nat.add_mod_mod]

/-! ## `NEXT` and `ENDDO` (O54) -/

/-- What `pop_loop` does and leaves unchanged, wherever `pc` then is (rule R35). -/
theorem popLoop_setPc_done (s : State) (p : Word) :
    Popped s (s.popLoop.setPc p) ∧ (s.popLoop.setPc p).pc = p ∧ LoopFrame s (s.popLoop.setPc p) := by
  have hregs : RegsKept [.la, .lc, .sr] s s.popLoop :=
    (Write.apply_regsKept .pop s).mono (by simp [Write.regs])
  refine ⟨?_, rfl, ?_, popLoop_pmem s, MemKept.of_xmem_eq (popLoop_xmem s)⟩
  · rcases popLoop_cases s with ⟨h0, e⟩ | ⟨hpos, e⟩
    · exact e ▸ ⟨rfl, fun h => absurd h0 (Nat.ne_of_gt h), fun _ => ⟨h0, rfl, rfl, rfl⟩⟩
    · exact e ▸ ⟨rfl, fun _ => ⟨rfl, rfl, rfl, rfl⟩, fun h => absurd h (Nat.ne_of_gt hpos)⟩
  · exact fun r hr => (setPc_full _ r p).trans (hregs r hr)

theorem exec_enddo (s : State) : exec .enddo s = .next (s.popLoop.setPc (s.pc + 1)) := rfl

theorem exec_next_of_eq_one {s : State} (h : s.lc = 1) : exec .next s = exec .enddo s :=
  congrArg (evaluateN 1 · s) (nextHalf_of_eq_one h)

theorem exec_next_of_ne_one {s : State} (h : s.lc ≠ 1) :
    exec .next s = .next ((s.setLc (s.lc - 1)).setPc s.la) :=
  congrArg (evaluateN 1 · s) (nextHalf_of_ne_one h)

/-- Settles O54: `NEXT` on the last iteration does what `ENDDO` does, which is `pop_loop`. -/
theorem nextAndEnddo : Obligations.NextAndEnddo := fun s =>
  ⟨exec_next_of_ne_one,
    fun h => ⟨_, (exec_next_of_eq_one h).trans (exec_enddo s), popLoop_setPc_done s _⟩,
    _, exec_enddo s, popLoop_setPc_done s _⟩

/-! ## The 16-bit register port (O57) -/

theorem aligned_toInt (v : Word) : (aligned v).toInt = v.toInt * 65536 := by
  rw [aligned, BitVec.toInt_append, BitVec.toInt_signExtend_of_le (by decide)]
  simp [Int.mul_comm]

/-- The two forms of alignment: a value times `2^16`, and a concatenation (rules R8, R25). -/
theorem ext40_eq_aligned (v : Word) : ext40 v = aligned v := by
  rw [ext40, ← aligned_toInt, BitVec.ofInt_toInt]

theorem ofWord_eq_bits (v : Word) : Status.ofWord v = ⟨v[0], v[1], v[2], v[3], v[4]⟩ := by
  simp [Status.ofWord, Config.statusMask]

theorem withLow_eq (acc : Wide) (v : Word) : withLow acc v = acc.extractLsb' 16 24 ++ v :=
  congrArg (· ++ v) (BitVec.extractLsb'_append_extractLsb'_eq_extractLsb' rfl)

theorem withExt_eq (acc : Wide) (v : Byte) : withExt acc v = v ++ acc.extractLsb' 0 32 := by
  have h : highPart acc ++ lowPart acc = acc.extractLsb' 0 32 :=
    BitVec.extractLsb'_append_extractLsb'_eq_extractLsb' rfl
  rw [← h]
  exact BitVec.append_assoc

theorem setReg16_portHolds (r : Reg) (v : Word) (s : State) : PortHolds r v s (s.setReg16 r v) := by
  cases r with
  | a | b => exact ext40_eq_aligned v
  | a0 | b0 => exact withLow_eq _ v
  | a2 | b2 => exact withExt_eq _ _
  | sr => exact ofWord_eq_bits v
  | _ => rfl

/-- Settles O57: the register holds the value as the port writes it, and the frame is that of `SetReg16`. -/
theorem setReg16IsTheTable : Obligations.SetReg16IsTheTable := by
  intro r v s
  have hregs : RegsKept [home r] s (s.setReg16 r v) := fun q hq =>
    setReg16_full s r q v (by simpa using hq)
  exact ⟨setReg16_portHolds r v s, setReg16_pc s r v, hregs, setReg16_ls s r v, setReg16_lsp s r v,
    setReg16_pmem s r v, MemKept.of_xmem_eq (setReg16_xmem s r v)⟩

end Sys2Proof.Machine
end

section
/-! PROOFS. The accesses of an opcode: what each half asks of the memory capability, and the table of R66
(O20). -/

namespace Sys2Proof.Machine

/-! ## The accesses of one half -/

/-- The accesses a half makes on plain memory when the other half makes none: its reads, then its writes. -/
def Half.calls (h : Half) (s : State) : List BusCall :=
  h.reads.map .memRead ++ busWrites (h.writes (h.reads.map s.memRead))

/-- A half that makes no access, whatever the host would answer. -/
def Half.Silent (h : Half) : Prop := h.reads = [] ∧ ∀ ans, busWrites (h.writes ans) = []

theorem Half.Silent.calls {h : Half} (hs : h.Silent) (s : State) : h.calls s = [] := by
  obtain ⟨hreads, hwrites⟩ := hs
  simp [Half.calls, hreads, hwrites]

theorem emptyHalf_silent : emptyHalf.Silent := ⟨rfl, fun _ => rfl⟩

/-- Where the instruction half makes no access, the accesses are the move's. -/
theorem busCalls_of_instrHalf_silent {i : Instr} {s : State} (h : (instrHalfOf i s).Silent) :
    busCalls i s = (moveHalfOf i s).calls s := by
  obtain ⟨hreads, hwrites⟩ := h
  simp [busCalls, busCallsWith, Half.calls, hreads, hwrites]

/-- Where the move half makes no access, the accesses are the instruction's. -/
theorem busCalls_of_moveHalf_silent {i : Instr} {s : State} (h : (moveHalfOf i s).Silent) :
    busCalls i s = (instrHalfOf i s).calls s := by
  obtain ⟨hreads, hwrites⟩ := h
  simp [busCalls, busCallsWith, Half.calls, hreads, hwrites]

/-! ## The move halves -/

theorem moveHalf_calls (m : PMove) (s : State) : (moveHalf m s).calls s = moveCalls m s := by
  cases m <;> rfl

/-- A slot of a dual read has the address register itself as its address, in either mode (rule R148). -/
theorem resolve_dualMode_ea (mode : DualMode) (n : AddrReg) (s : State) :
    (resolve (addrModeOf (dualModeOfMode mode) n) s).ea = some (s.addr n) := by
  cases mode <;> rfl

theorem dualHalf_calls (m : DMove) (s : State) : (dualHalf m s).calls s = dualCalls m s := by
  cases m with
  | dualread base mode1 dst1 mode2 dst2 =>
    simp only [Half.calls, dualHalf, resolve_dualMode_ea]
    rfl
  | dualreg => rfl

/-! ## The instruction halves -/

/-- A load whose mode has an address reads that word and no other (rule R221). -/
theorem loadHalf_calls {mode : AddrMode} {s : State} {ea : Word} (h : (resolve mode s).ea = some ea)
    (dst : Reg) : (loadHalf dst mode s).calls s = [.memRead ea] := by
  cases mode with
  | immediate imm => cases h
  | _ =>
    obtain rfl := Option.some.inj h
    rfl

/-- A store writes the pre-state register to its address and makes no other access (rule R222). -/
theorem storeHalf_calls {mode : AddrMode} {s : State} {ea : Word} (h : (resolve mode s).ea = some ea)
    (src : Reg) : (storeHalf src mode s).calls s = [.memWrite ea (s.reg16 src)] := by
  simp only [Half.calls, storeHalf, h]
  rfl

theorem bitMask_eq_twoPow (bit : BitVec 4) : bitMask bit = BitVec.twoPow 16 bit.toNat := rfl

/-- `BTST` on memory: one read (rule R213). -/
theorem btstMemHalf_calls (bit : BitVec 4) (rn : AddrReg) (s : State) :
    (btstMemHalf bit rn s).calls s = [.memRead (s.addr rn)] := rfl

/-- A bit instruction on memory that writes back: one read, then one write of the same word (rule R211). -/
theorem bitMemHalf_calls (f : Word → Word) (bit : BitVec 4) (rn : AddrReg) (s : State) :
    (bitMemHalf f bit rn s).calls s =
      [.memRead (s.addr rn), .memWrite (s.addr rn) (f (s.memRead (s.addr rn)))] := rfl

theorem nextHalf_silent (s : State) : (nextHalf s).Silent := by
  by_cases h : s.lc = 1
  · exact nextHalf_of_eq_one h ▸ ⟨rfl, fun _ => rfl⟩
  · exact nextHalf_of_ne_one h ▸ ⟨rfl, fun _ => rfl⟩

/-- The instructions whose own half makes an access: the format N loads and stores, and the bit instructions
on memory. -/
def accessesMemory : Instr → Bool
  | .moveLoad _ _ _ | .moveLoadDisp _ _ _ | .moveLoadAbs _ _ => true
  | .moveStore _ _ _ | .moveStoreDisp _ _ _ | .moveStoreAbs _ _ => true
  | .btstMem _ _ | .bsetMem _ _ | .bclrMem _ _ | .bchgMem _ _ => true
  | _ => false

/-- No other instruction makes an access of its own. -/
theorem instrHalfOf_silent {i : Instr} (h : accessesMemory i = false) (s : State) :
    (instrHalfOf i s).Silent := by
  cases i with
  | moveLoad | moveLoadDisp | moveLoadAbs | moveStore | moveStoreDisp | moveStoreAbs
  | btstMem | bsetMem | bclrMem | bchgMem => cases h
  | next => exact nextHalf_silent s
  | _ => exact ⟨rfl, fun _ => rfl⟩

theorem accessesMemory_of_pMoveOf {i : Instr} {m : PMove} (h : pMoveOf i = some m) :
    accessesMemory i = false := by
  cases i with
  | moveLoad | moveLoadDisp | moveLoadAbs | moveStore | moveStoreDisp | moveStoreAbs
  | btstMem | bsetMem | bclrMem | bchgMem => cases h
  | _ => rfl

theorem accessesMemory_of_dMoveOf {i : Instr} {m : DMove} (h : dMoveOf i = some m) :
    accessesMemory i = false := by
  cases i with
  | dualread | dualreg | mpyrD | macD | macrD => rfl
  | _ => cases h

theorem pMoveOf_eq_none_of_dMoveOf {i : Instr} {m : DMove} (h : dMoveOf i = some m) : pMoveOf i = none := by
  cases i with
  | dualread | dualreg | mpyrD | macD | macrD => rfl
  | _ => cases h

/-! ## The accesses of an opcode -/

theorem busCalls_of_pMoveOf {i : Instr} {m : PMove} (h : pMoveOf i = some m) (s : State) :
    busCalls i s = moveCalls m s := by
  rw [busCalls_of_instrHalf_silent (instrHalfOf_silent (accessesMemory_of_pMoveOf h) s)]
  rcases moveHalfOf_cases i s with ⟨m', hp, e⟩ | ⟨_, hp, _⟩ | ⟨hp, _⟩
  · obtain rfl : m = m' := Option.some.inj (h.symm.trans hp)
    rw [e, moveHalf_calls]
  · cases h.symm.trans hp
  · cases h.symm.trans hp

theorem busCalls_of_dMoveOf {i : Instr} {m : DMove} (h : dMoveOf i = some m) (s : State) :
    busCalls i s = dualCalls m s := by
  rw [busCalls_of_instrHalf_silent (instrHalfOf_silent (accessesMemory_of_dMoveOf h) s)]
  rcases moveHalfOf_cases i s with ⟨_, hp, _⟩ | ⟨m', _, hd, e⟩ | ⟨_, hd, _⟩
  · cases (pMoveOf_eq_none_of_dMoveOf h).symm.trans hp
  · obtain rfl : m = m' := Option.some.inj (h.symm.trans hd)
    rw [e, dualHalf_calls]
  · cases h.symm.trans hd

/-- Without a parallel move the accesses are the instruction's. -/
theorem busCalls_of_no_move {i : Instr} (hp : pMoveOf i = none) (hd : dMoveOf i = none) (s : State) :
    busCalls i s = (instrHalfOf i s).calls s := by
  apply busCalls_of_moveHalf_silent
  rcases moveHalfOf_cases i s with ⟨_, hp', _⟩ | ⟨_, _, hd', _⟩ | ⟨_, _, e⟩
  · cases hp.symm.trans hp'
  · cases hd.symm.trans hd'
  · exact e ▸ emptyHalf_silent

/-- An opcode without a move that makes an access is one whose instruction half makes it. -/
theorem accessesMemory_of_busCalls_ne_nil {i : Instr} {s : State} (h : busCalls i s ≠ [])
    (hp : pMoveOf i = none) (hd : dMoveOf i = none) : accessesMemory i = true := by
  by_contra hm
  have hs : (instrHalfOf i s).Silent := instrHalfOf_silent (Bool.eq_false_of_not_eq_true hm) s
  exact h ((busCalls_of_no_move hp hd s).trans (hs.calls s))

/-- Settles O20: at most one half of an opcode makes accesses; those of the move are the table's by
`busCalls_of_pMoveOf` and `busCalls_of_dMoveOf`, the others are read off the instruction half. -/
theorem busCallsAreTheTable : Obligations.BusCallsAreTheTable := by
  refine ⟨fun i s m h => busCalls_of_pMoveOf h s, fun i s m h => busCalls_of_dMoveOf h s,
    fun dst mode rn s ea h => (busCalls_of_no_move rfl rfl s).trans (loadHalf_calls h dst),
    fun dst rn disp s => (busCalls_of_no_move rfl rfl s).trans (loadHalf_calls rfl dst),
    fun dst addr s => (busCalls_of_no_move rfl rfl s).trans (loadHalf_calls rfl dst),
    fun dst imm s => (busCalls_of_no_move rfl rfl s).trans ((instrHalfOf_silent rfl s).calls s),
    fun src mode rn s ea h => (busCalls_of_no_move rfl rfl s).trans (storeHalf_calls h src),
    fun src rn disp s => (busCalls_of_no_move rfl rfl s).trans (storeHalf_calls rfl src),
    fun src addr s => (busCalls_of_no_move rfl rfl s).trans (storeHalf_calls rfl src),
    fun bit rn s => (busCalls_of_no_move rfl rfl s).trans (btstMemHalf_calls bit rn s),
    fun bit rn s => ?bset, fun bit rn s => ?bclr, fun bit rn s => ?bchg, fun i s h hp hd => ?others⟩
  case bset =>
    rw [← bitMask_eq_twoPow]
    exact (busCalls_of_no_move rfl rfl s).trans (bitMemHalf_calls (setBit bit) bit rn s)
  case bclr =>
    rw [← bitMask_eq_twoPow]
    exact (busCalls_of_no_move rfl rfl s).trans (bitMemHalf_calls (clearBit bit) bit rn s)
  case bchg =>
    rw [← bitMask_eq_twoPow]
    exact (busCalls_of_no_move rfl rfl s).trans (bitMemHalf_calls (changeBit bit) bit rn s)
  case others =>
    have hm : accessesMemory i = true := accessesMemory_of_busCalls_ne_nil h hp hd
    cases i with
    | moveLoad | moveLoadDisp | moveLoadAbs | moveStore | moveStoreDisp | moveStoreAbs
    | btstMem | bsetMem | bclrMem | bchgMem => simp
    | _ => cases hm

end Sys2Proof.Machine
end

section
/-! PROOFS. The decoder and the encoder: the fields of a concatenation, the field codes, the three formats, the
round trip from an opcode to its words and back, and the well-formedness of what is decoded (O1, O3, O6). -/

namespace Sys2Proof.Coding

/-! ## Bit fields of a word -/

/-- A one-bit field read as a Boolean. -/
theorem getElem_eq_field {n i : Nat} (x : BitVec n) (h : i < n) : x[i] = (x.extractLsb' i 1 == 1#1) := by
  have bit : (x.extractLsb' i 1)[0] = x[i] := by simp [h]
  rw [← bit]
  rcases BitVec.eq_zero_or_eq_one (x.extractLsb' i 1) with e | e <;> simp [e]

/-- A field inside a field that is known. -/
theorem field_of_field {n k s p len : Nat} {x : BitVec n} {y : BitVec k} (h : x.extractLsb' s k = y)
    (hs : s ≤ p) (hl : p + len ≤ s + k) : x.extractLsb' p len = y.extractLsb' (p - s) len := by
  subst h
  ext i hi
  have hk : p - s + i < k := by omega
  simp [hk, show s + (p - s + i) = p + i by omega]

/-- A field above the lower part of a concatenation. -/
theorem field_append {n k s len : Nat} (x : BitVec n) (y : BitVec k) :
    (x ++ y).extractLsb' (s + k) len = x.extractLsb' s len := by
  rw [BitVec.extractLsb'_append_eq_of_le (Nat.le_add_left k s), Nat.add_sub_cancel]

section Fields

/-! The fields of a concatenation are its parts, for the numbers of parts the encoding tables have.
Where two neighbouring parts are literals, the proofs below keep `simp` from joining them into one
(`-BitVec.reduceAppend`), so that these equations still apply. -/

variable {n₁ n₂ n₃ n₄ n₅ n₆ : Nat}

theorem fields₂ (a : BitVec n₁) (b : BitVec n₂) :
    (a ++ b).extractLsb' n₂ n₁ = a ∧ (a ++ b).extractLsb' 0 n₂ = b :=
  ⟨BitVec.extractLsb'_append_eq_left, BitVec.extractLsb'_append_eq_right⟩

theorem fields₃ (a : BitVec n₁) (b : BitVec n₂) (c : BitVec n₃) :
    (a ++ b ++ c).extractLsb' (n₂ + n₃) n₁ = a ∧ (a ++ b ++ c).extractLsb' n₃ n₂ = b ∧
      (a ++ b ++ c).extractLsb' 0 n₃ = c := by
  obtain ⟨hb, hc⟩ := fields₂ (a ++ b) c
  refine ⟨?_, ?_, hc⟩
  · rw [field_append, (fields₂ a b).1]
  · rw [field_of_field hb (le_refl _) (by omega), Nat.sub_self, (fields₂ a b).2]

theorem fields₄ (a : BitVec n₁) (b : BitVec n₂) (c : BitVec n₃) (d : BitVec n₄) :
    (a ++ b ++ c ++ d).extractLsb' (n₂ + n₃ + n₄) n₁ = a ∧
      (a ++ b ++ c ++ d).extractLsb' (n₃ + n₄) n₂ = b ∧ (a ++ b ++ c ++ d).extractLsb' n₄ n₃ = c ∧
      (a ++ b ++ c ++ d).extractLsb' 0 n₄ = d := by
  obtain ⟨ha, hb, -⟩ := fields₃ a b c
  exact ⟨(field_append _ d).trans ha, (field_append _ d).trans hb, (fields₃ (a ++ b) c d).2⟩

theorem fields₅ (a : BitVec n₁) (b : BitVec n₂) (c : BitVec n₃) (d : BitVec n₄) (e : BitVec n₅) :
    (a ++ b ++ c ++ d ++ e).extractLsb' (n₂ + n₃ + n₄ + n₅) n₁ = a ∧
      (a ++ b ++ c ++ d ++ e).extractLsb' (n₃ + n₄ + n₅) n₂ = b ∧
      (a ++ b ++ c ++ d ++ e).extractLsb' (n₄ + n₅) n₃ = c ∧
      (a ++ b ++ c ++ d ++ e).extractLsb' n₅ n₄ = d ∧ (a ++ b ++ c ++ d ++ e).extractLsb' 0 n₅ = e := by
  obtain ⟨ha, hb, -⟩ := fields₄ a b c d
  exact ⟨(field_append _ e).trans ha, (field_append _ e).trans hb, (fields₄ (a ++ b) c d e).2⟩

theorem fields₆ (a : BitVec n₁) (b : BitVec n₂) (c : BitVec n₃) (d : BitVec n₄) (e : BitVec n₅)
    (f : BitVec n₆) :
    (a ++ b ++ c ++ d ++ e ++ f).extractLsb' (n₂ + n₃ + n₄ + n₅ + n₆) n₁ = a ∧
      (a ++ b ++ c ++ d ++ e ++ f).extractLsb' (n₃ + n₄ + n₅ + n₆) n₂ = b ∧
      (a ++ b ++ c ++ d ++ e ++ f).extractLsb' (n₄ + n₅ + n₆) n₃ = c ∧
      (a ++ b ++ c ++ d ++ e ++ f).extractLsb' (n₅ + n₆) n₄ = d ∧
      (a ++ b ++ c ++ d ++ e ++ f).extractLsb' n₆ n₅ = e ∧
      (a ++ b ++ c ++ d ++ e ++ f).extractLsb' 0 n₆ = f := by
  obtain ⟨ha, hb, -⟩ := fields₅ a b c d e
  exact ⟨(field_append _ f).trans ha, (field_append _ f).trans hb, (fields₅ (a ++ b) c d e f).2⟩

end Fields

/-! ## Field codes: the decoder's tables invert the encoder's -/

@[simp] theorem accOf_bit (d : Acc) : accOf (d.bit == 1#1) = d := by cases d <;> rfl

@[simp] theorem signOf_bit (k : Sign) : signOf (k.bit == 1#1) = k := by cases k <;> rfl

@[simp] theorem slot1BaseOf_bit (r : Slot1Base) : slot1BaseOf (r.bit == 1#1) = r := by cases r <;> rfl

@[simp] theorem xRegOf_bit (r : XReg) : xRegOf (r.bit == 1#1) = r := by cases r <;> rfl

@[simp] theorem yRegOf_bit (r : YReg) : yRegOf (r.bit == 1#1) = r := by cases r <;> rfl

@[simp] theorem dataRegOf_code (r : DataReg) : dataRegOf r.code = r := by cases r <;> rfl

@[simp] theorem addrRegOf_code (r : AddrReg) : addrRegOf r.code = r := by cases r <;> rfl

@[simp] theorem moveRegOf_code (r : MoveReg) : moveRegOf r.code = some r := by cases r <;> rfl

@[simp] theorem regOf_code (r : Reg) : regOf r.code = some r := by cases r <;> rfl

@[simp] theorem pairOf_code (q : Pair) : pairOf q.code = q := by cases q <;> rfl

@[simp] theorem dualPairOf_code (q : DualPair) : dualPairOf q.code = q := by cases q <;> rfl

@[simp] theorem condOf_code (c : Cond) : condOf c.code = some c := by cases c <;> rfl

@[simp] theorem modeOf_code (m : Mode) : modeOf m.code = some m := by cases m <;> rfl

@[simp] theorem dualModeOf_code (m : DualMode) : dualModeOf m.code = m := by cases m <;> rfl

/-- A bit instruction's register operand is read back where it is one (rule R100). -/
theorem bitRegOf_code {r : Reg} (h : r.isBitOperand = true) : bitRegOf r.code = some r := by
  simp [bitRegOf, h]

/-- The 3-bit codes 6 and 7 name no register (rule R36). -/
@[simp] theorem moveRegOf_six : moveRegOf 6#3 = none := rfl

@[simp] theorem moveRegOf_seven : moveRegOf 7#3 = none := rfl

/-- Modes 6 and 7 have forms of their own (rule R121). -/
@[simp] theorem modeOf_six : modeOf 6#3 = none := rfl

@[simp] theorem modeOf_seven : modeOf 7#3 = none := rfl

theorem moveReg_code_inj {r r' : MoveReg} (h : r.code = r'.code) : r = r' :=
  Option.some.inj (by rw [← moveRegOf_code r, h, moveRegOf_code])

/-! ## The three formats (rules R81, R104) -/

theorem decodeWords_of_format_N {word0 : Word} (h : word0.extractLsb' 14 2 = 0#2) (word1 : Word) :
    decodeWords word0 word1 = decodeN word0 word1 := by
  simp [decodeWords, getElem_eq_field, field_of_field h]

theorem decodeWords_of_format_D {word0 : Word} (h : word0.extractLsb' 14 2 = 1#2) (word1 : Word) :
    decodeWords word0 word1 = .ok (decodeD word0) := by
  simp [decodeWords, getElem_eq_field, field_of_field h]

theorem decodeWords_of_format_P {word0 : Word} (h : word0.extractLsb' 15 1 = 1#1) (word1 : Word) :
    decodeWords word0 word1 = decodeP word0 word1 := by
  simp [decodeWords, getElem_eq_field, h]

/-! ## Format P (rules R83 to R85) -/

/-- R84: the move field and its datum give the move back. -/
theorem decodeMove_code {m : PMove} (h : m.wellFormed = true) :
    decodeMove m.code (m.datum.getD 0#16) = some m := by
  cases m with
  | empty => rfl
  | regmove src dst =>
    have hne : src ≠ dst := by simpa [PMove.wellFormed] using h
    have hz : ¬ (src.code = 0#3 ∧ dst.code = 0#3) := fun ⟨hs, hd⟩ =>
      hne (moveReg_code_inj (hs.trans hd.symm))
    simp [decodeMove, PMove.code, getElem_eq_field, fields₃ 0#1 src.code dst.code, hz, hne]
  | immload imm dst =>
    simp [-BitVec.reduceAppend, decodeMove, PMove.code, PMove.datum, getElem_eq_field,
      fields₃ 0#1 6#3 dst.code]
  | absread addr dst =>
    simp [-BitVec.reduceAppend, decodeMove, PMove.code, PMove.datum, getElem_eq_field,
      fields₃ 0#1 7#3 dst.code]
  | abswrite src addr =>
    simp [decodeMove, PMove.code, PMove.datum, getElem_eq_field, fields₃ 0#1 src.code 6#3]
  | memread rn dst =>
    simp [-BitVec.reduceAppend, decodeMove, PMove.code, getElem_eq_field, fields₄ 1#1 0#1 rn.code dst.code]
  | memwrite src rn =>
    simp [-BitVec.reduceAppend, decodeMove, PMove.code, getElem_eq_field, fields₄ 1#1 1#1 rn.code src.code]

/-- R83: a format P opcode decodes to what its operation byte makes of its move. -/
theorem decodeWords_encodeP {m : PMove} {op : BitVec 8} {i : Instr} (hm : m.wellFormed = true)
    (hop : (decodeOp op).map (· m) = some i) :
    decodeWords (encodeP m op).1 ((encodeP m op).2.getD 0#16) = .ok i := by
  obtain ⟨hP, hv, ho⟩ := fields₃ 1#1 m.code op
  obtain ⟨f, hf, rfl⟩ := Option.map_eq_some_iff.1 hop
  rw [encodeP, decodeWords_of_format_P hP]
  simp [decodeP, hv, ho, decodeMove_code hm, hf]

/-- The multiply class by its field `oo` (rule R85). -/
def mulOf (k : Sign) (o : BitVec 2) (q : Pair) (d : Acc) : PMove → Instr :=
  match o.toNat with
  | 0 => fun m => .mpy m k q d
  | 1 => fun m => .mpyr m k q d
  | 2 => fun m => .mac m k q d
  | _ => fun m => .macr m k q d

theorem decodeOp_mulByte (k : Sign) (o : BitVec 2) (d : Acc) (q : Pair) :
    decodeOp (mulByte k o d q) = some (mulOf k o q d) := by
  simp only [decodeOp, decodeMul, mulByte, getElem_eq_field, fields₅ 1#1 k.bit o d.bit q.code,
    accOf_bit, signOf_bit, pairOf_code, beq_self_eq_true, if_true]
  rfl

/-! ## Format D (rules R87 to R89) -/

/-- R88, R89: the dual move is read back from the bits `T` and `word0[12:6]`. -/
theorem decodeDMove_of_code {word0 : Word} {m : DMove} (h : word0.extractLsb' 6 8 = m.code) :
    decodeDMove word0 = m := by
  cases m with
  | dualread base mode1 dst1 mode2 dst2 =>
    simp [-BitVec.reduceAppend, decodeDMove, getElem_eq_field, field_of_field h, DMove.code,
      fields₆ 0#1 base.bit mode1.code dst1.bit mode2.code dst2.bit]
  | dualreg src1 dst1 src2 dst2 =>
    simp [decodeDMove, getElem_eq_field, field_of_field h, DMove.code,
      fields₅ 1#1 src1.code dst1.code src2.bit dst2.code]

/-- Format D by its field `oo` (rule R87). -/
def dualOf (m : DMove) (k : Sign) (o : BitVec 2) (q : DualPair) (d : Acc) : Instr :=
  match o.toNat with
  | 0 => withMpy m k q d
  | 1 => .mpyrD m k q d
  | 2 => .macD m k q d
  | _ => .macrD m k q d

theorem decodeWords_encodeD (m : DMove) (k : Sign) (o : BitVec 2) (d : Acc) (q : DualPair) (word1 : Word) :
    decodeWords (encodeD m k o d q).1 word1 = .ok (dualOf m k o q d) := by
  obtain ⟨hD, hm, hk, ho, hd, hq⟩ := fields₆ 1#2 m.code k.bit o d.bit q.code
  rw [encodeD, decodeWords_of_format_D hD, decodeD]
  simp only [decodeDMove_of_code hm, getElem_eq_field, hk, ho, hd, hq, accOf_bit, signOf_bit, dualPairOf_code]
  rfl

/-! ## Format N (rules R90 to R100) -/

/-- Format N by its major (rule R90). -/
def decodeMajor (major : BitVec 4) (x : BitVec 10) (word1 : Word) : Except DecodeErrorName Instr :=
  match major.toNat with
  | 0 => decodeN0 x
  | 1 => decodeMoveReg x
  | 2 => decodeLoad x word1
  | 3 => decodeStore x word1
  | 4 => decodeAccImm x word1
  | 5 => decodeStatusImm x
  | 8 => decodeBccShort x
  | 10 => decodeLongTransfer x word1
  | 11 => decodeDo x
  | 12 => decodeBit x .btstReg .btstMem
  | 13 => decodeBit x .bsetReg .bsetMem
  | 14 => decodeBit x .bclrReg .bclrMem
  | 15 => decodeBit x .bchgReg .bchgMem
  | _ => .error .invalidOpcode

theorem decodeN_eq_decodeMajor (word0 word1 : Word) :
    decodeN word0 word1 = decodeMajor (word0.extractLsb' 10 4) (word0.extractLsb' 0 10) word1 := rfl

/-- A format N word decodes as its major and its operand bits do. -/
theorem decodeWords_encodeN {major : BitVec 4} {x : BitVec 10} {word1 : Word} {i : Instr}
    (h : decodeMajor major x word1 = .ok i) : decodeWords (encodeN major x).1 word1 = .ok i := by
  obtain ⟨hN, hmajor, hx⟩ := fields₃ 0#2 major x
  rw [encodeN, decodeWords_of_format_N hN, decodeN_eq_decodeMajor, hmajor, hx, h]

/-! The operand bits of each major are read back (rules R91 to R100). -/

theorem decodeMoveReg_code (src dst : Reg) : decodeMoveReg (src.code ++ dst.code) = .ok (.moveReg src dst) := by
  simp [decodeMoveReg, fields₂ src.code dst.code]

section Moves

variable (r : Reg) (mode : Mode) (rn : AddrReg) (word1 : Word)

theorem decodeLoad_mode :
    decodeLoad (r.code ++ mode.code ++ rn.code) word1 = .ok (.moveLoad r mode rn) := by
  simp [decodeLoad, fields₃ r.code mode.code rn.code]

theorem decodeLoad_disp :
    decodeLoad (r.code ++ 6#3 ++ rn.code) word1 = .ok (.moveLoadDisp r rn word1) := by
  simp [decodeLoad, fields₃ r.code 6#3 rn.code]

theorem decodeLoad_abs : decodeLoad (r.code ++ 7#3 ++ 0#2) word1 = .ok (.moveLoadAbs r word1) := by
  simp [decodeLoad, fields₃ r.code 7#3 0#2]

theorem decodeLoad_imm : decodeLoad (r.code ++ 7#3 ++ 1#2) word1 = .ok (.moveImm r word1) := by
  simp [decodeLoad, fields₃ r.code 7#3 1#2]

theorem decodeStore_mode :
    decodeStore (r.code ++ mode.code ++ rn.code) word1 = .ok (.moveStore r mode rn) := by
  simp [decodeStore, fields₃ r.code mode.code rn.code]

theorem decodeStore_disp :
    decodeStore (r.code ++ 6#3 ++ rn.code) word1 = .ok (.moveStoreDisp r rn word1) := by
  simp [decodeStore, fields₃ r.code 6#3 rn.code]

theorem decodeStore_abs : decodeStore (r.code ++ 7#3 ++ 0#2) word1 = .ok (.moveStoreAbs r word1) := by
  simp [decodeStore, fields₃ r.code 7#3 0#2]

end Moves

theorem decodeStatusImm_andc (imm : BitVec 8) : decodeStatusImm (0#1 ++ 0#1 ++ imm) = .ok (.andc imm) := by
  simp [-BitVec.reduceAppend, decodeStatusImm, getElem_eq_field, fields₃ 0#1 0#1 imm]

theorem decodeStatusImm_orc (imm : BitVec 8) : decodeStatusImm (1#1 ++ 0#1 ++ imm) = .ok (.orc imm) := by
  simp [-BitVec.reduceAppend, decodeStatusImm, getElem_eq_field, fields₃ 1#1 0#1 imm]

section Transfers

variable (c : Cond) (rn : AddrReg) (word1 : Word)

theorem decodeBccShort_code (disp : BitVec 6) : decodeBccShort (c.code ++ disp) = .ok (.bccShort c disp) := by
  simp [decodeBccShort, fields₂ c.code disp]

theorem decodeLongTransfer_bcc :
    decodeLongTransfer (c.code ++ 0#2 ++ 0#2 ++ 0#2) word1 = .ok (.bccLong c word1) := by
  simp [decodeLongTransfer, fields₄ c.code 0#2 0#2 0#2]

theorem decodeLongTransfer_jcc :
    decodeLongTransfer (c.code ++ 1#2 ++ 0#2 ++ 0#2) word1 = .ok (.jccAbs c word1) := by
  simp [decodeLongTransfer, fields₄ c.code 1#2 0#2 0#2]

theorem decodeLongTransfer_jccReg :
    decodeLongTransfer (c.code ++ 2#2 ++ 0#2 ++ rn.code) word1 = .ok (.jccReg c rn) := by
  simp [decodeLongTransfer, fields₄ c.code 2#2 0#2 rn.code]

end Transfers

theorem decodeDo_imm (count : BitVec 8) : decodeDo (0#1 ++ 0#1 ++ count) = .ok (.doImm count) := by
  simp [-BitVec.reduceAppend, decodeDo, getElem_eq_field, fields₃ 0#1 0#1 count]

theorem decodeDo_reg (src : Reg) : decodeDo (1#1 ++ 0#4 ++ src.code) = .ok (.doReg src) := by
  simp [-BitVec.reduceAppend, decodeDo, getElem_eq_field, fields₃ 1#1 0#4 src.code]

section BitInstructions

variable (bit : BitVec 4) (onReg : BitVec 4 → Reg → Instr) (onMem : BitVec 4 → AddrReg → Instr)

theorem decodeBit_reg {r : Reg} (h : r.isBitOperand = true) :
    decodeBit (bit ++ r.code ++ 0#1) onReg onMem = .ok (onReg bit r) := by
  simp [decodeBit, getElem_eq_field, fields₃ bit r.code 0#1, bitRegOf_code h]

theorem decodeBit_mem (rn : AddrReg) :
    decodeBit (bit ++ 0#3 ++ rn.code ++ 1#1) onReg onMem = .ok (onMem bit rn) := by
  simp [decodeBit, getElem_eq_field, fields₄ bit 0#3 rn.code 1#1]

end BitInstructions

/-! ## The round trip -/

/-- R80 to R104: the words of a well-formed opcode decode to it, with zero for a second word it does not have. -/
theorem decodeWords_encode {i : Instr} (h : i.wellFormed = true) :
    decodeWords (encode i).1 ((encode i).2.getD 0#16) = .ok i := by
  cases i with
  | empty | regmove | immload | absread | abswrite | memread | memwrite =>
    exact decodeWords_encodeP h rfl
  | clr m d | tst m d | abs m d | neg m d | not m d | rnd m d | tfrAcc m d
  | asl m d | asr m d | lsl m d | lsr m d | rol m d | ror m d | inc m d | dec m d
  | addAcc m d | subAcc m d | cmpAcc m d =>
    exact decodeWords_encodeP h (by cases d <;> rfl)
  | add m src d | sub m src d | cmp m src d | and m src d | tfrData m src d | or m src d | eor m src d =>
    exact decodeWords_encodeP h (by cases src <;> cases d <;> rfl)
  | tfrAddr m rn d => exact decodeWords_encodeP h (by cases rn <;> cases d <;> rfl)
  | mpy m k q d | mpyr m k q d | mac m k q d | macr m k q d =>
    exact decodeWords_encodeP h (congrArg (Option.map (· m)) (decodeOp_mulByte k _ d q))
  | dualread | dualreg | mpyrD | macD | macrD => exact decodeWords_encodeD _ _ _ _ _ _
  | nop | enddo | next => exact decodeWords_encodeN rfl
  | moveReg src dst => exact decodeWords_encodeN (decodeMoveReg_code src dst)
  | moveLoad dst mode rn => exact decodeWords_encodeN (decodeLoad_mode dst mode rn _)
  | moveLoadDisp dst rn disp => exact decodeWords_encodeN (decodeLoad_disp dst rn disp)
  | moveLoadAbs dst addr => exact decodeWords_encodeN (decodeLoad_abs dst addr)
  | moveImm dst imm => exact decodeWords_encodeN (decodeLoad_imm dst imm)
  | moveStore src mode rn => exact decodeWords_encodeN (decodeStore_mode src mode rn _)
  | moveStoreDisp src rn disp => exact decodeWords_encodeN (decodeStore_disp src rn disp)
  | moveStoreAbs src addr => exact decodeWords_encodeN (decodeStore_abs src addr)
  | addi imm d | subi imm d | cmpi imm d | andi imm d | ori imm d | eori imm d =>
    exact decodeWords_encodeN (by cases d <;> rfl)
  | andc imm => exact decodeWords_encodeN (decodeStatusImm_andc imm)
  | orc imm => exact decodeWords_encodeN (decodeStatusImm_orc imm)
  | bccShort c disp => exact decodeWords_encodeN (decodeBccShort_code c disp)
  | bccLong c disp => exact decodeWords_encodeN (decodeLongTransfer_bcc c disp)
  | jccAbs c target => exact decodeWords_encodeN (decodeLongTransfer_jcc c target)
  | jccReg c rn => exact decodeWords_encodeN (decodeLongTransfer_jccReg c rn _)
  | doImm count => exact decodeWords_encodeN (decodeDo_imm count)
  | doReg src => exact decodeWords_encodeN (decodeDo_reg src)
  | btstReg bit r | bsetReg bit r | bclrReg bit r | bchgReg bit r =>
    exact decodeWords_encodeN (decodeBit_reg bit _ _ h)
  | btstMem bit rn | bsetMem bit rn | bclrMem bit rn | bchgMem bit rn =>
    exact decodeWords_encodeN (decodeBit_mem bit _ _ rn)

/-- An opcode is two words long exactly where its encoding has a second word (rules R82, R262). -/
theorem size_eq_wordCount (i : Instr) : i.size = if (encode i).2.isSome then 2 else 1 := by
  cases i with
  | clr m | tst m | abs m | neg m | not m | rnd m | tfrAcc m | asl m | asr m | lsl m | lsr m | rol m
  | ror m | inc m | dec m | add m | addAcc m | sub m | subAcc m | cmp m | cmpAcc m | and m | tfrData m
  | or m | tfrAddr m | eor m | mpy m | mpyr m | mac m | macr m => exact Laws.wordCount_move m
  | _ => rfl

/-- Settles O1: the fields of the encoded words are the codes of the opcode's operands, and every table of the
decoder reads its code back. -/
theorem decodeOfEncode : Obligations.DecodeOfEncode := by
  intro i hi
  have hwords := decodeWords_encode hi
  have hsize := size_eq_wordCount i
  rw [Machine.decode_eq_ok_iff]
  cases h1 : (encode i).2 with
  | some word1 => simpa [decodeChecked, h1] using hwords
  | none =>
    simp only [h1, Option.getD_none, Option.isSome_none] at hwords hsize
    simp [decodeChecked, hwords, hsize]

/-- Settles O6: each word is the encoder's for the instruction beside it, so the round trip gives it back. -/
theorem writtenOutWordsDecode : Obligations.WrittenOutWordsDecode :=
  ⟨decodeOfEncode (.regmove .x0 .x1) rfl,
    decodeOfEncode (.tfrAddr (.memread .r0 .x0) .r0 .a) rfl,
    decodeOfEncode (.add (.immload 5 .x0) .x0 .a) rfl,
    decodeOfEncode (.macr (.memwrite .y1 .r0) .minus .y1y0 .b) rfl,
    decodeOfEncode (.macD (.dualread .r0 .postInc .x0 .postAdd .y0) .plus .x0y0 .a) rfl,
    decodeOfEncode (.dualreg .x0 .x1 .a .y0 .plus .x0y0 .a) rfl,
    decodeOfEncode (.moveReg .a .x0) rfl,
    decodeOfEncode (.moveLoadDisp .a1 .r2 0xFFF0) rfl,
    decodeOfEncode (.moveStore .a2 .preDec .r3) rfl,
    decodeOfEncode (.eori 0xFFFF .a) rfl,
    decodeOfEncode (.andc 0xEF) rfl,
    decodeOfEncode (.bccShort .ne 0x3D) rfl,
    decodeOfEncode (.jccReg .eq .r3) rfl,
    decodeOfEncode (.doReg .lc) rfl,
    decodeOfEncode .next rfl,
    decodeOfEncode (.bchgMem 15 .r3) rfl⟩

/-! ## Decoded opcodes are well-formed (rules R84, R100, R210) -/

theorem wellFormed_of_decodeMove {v : BitVec 7} {word1 : Word} {m : PMove} (h : decodeMove v word1 = some m) :
    m.wellFormed = true := by
  simp only [decodeMove] at h
  split at h
  · repeat' split at h
    all_goals cases h <;> rfl
  · split at h
    · cases h; rfl
    · split at h
      · split at h
        · cases h
        · next hne => cases h; simpa [PMove.wellFormed] using hne
      all_goals repeat' split at h
      all_goals cases h <;> rfl

theorem wellFormed_withNop (m : PMove) : (withNop m).wellFormed = m.wellFormed := by cases m <;> rfl

/-- The operation byte puts no condition of its own on the operands. -/
theorem wellFormed_of_decodeOp {op : BitVec 8} {f : PMove → Instr} (h : decodeOp op = some f) (m : PMove) :
    (f m).wellFormed = m.wellFormed := by
  unfold decodeOp at h
  split at h
  · unfold decodeMul at h
    split at h
    all_goals cases h; rfl
  · unfold decodeAlu at h
    split at h
    case h_1 =>
      split at h <;> cases h
      exact wellFormed_withNop m
    all_goals repeat' split at h
    all_goals cases h <;> rfl

theorem wellFormed_of_decodeP {word0 word1 : Word} {i : Instr} (h : decodeP word0 word1 = .ok i) :
    i.wellFormed = true := by
  unfold decodeP at h
  split at h
  · next m f hm hf =>
    cases h
    exact (wellFormed_of_decodeOp hf m).trans (wellFormed_of_decodeMove hm)
  · cases h

theorem wellFormed_decodeD (word0 : Word) : (decodeD word0).wellFormed = true := by
  unfold decodeD
  split
  · cases decodeDMove word0 <;> rfl
  all_goals rfl

theorem isBitOperand_of_bitRegOf {c : BitVec 5} {r : Reg} (h : bitRegOf c = some r) :
    r.isBitOperand = true := by
  unfold bitRegOf at h
  repeat' split at h
  all_goals cases h
  assumption

theorem wellFormed_of_decodeBit {x : BitVec 10} {onReg : BitVec 4 → Reg → Instr}
    {onMem : BitVec 4 → AddrReg → Instr} {i : Instr} (h : decodeBit x onReg onMem = .ok i)
    (hreg : ∀ bit r, (onReg bit r).wellFormed = r.isBitOperand)
    (hmem : ∀ bit rn, (onMem bit rn).wellFormed = true) : i.wellFormed = true := by
  unfold decodeBit at h
  split at h
  · split at h <;> cases h
    exact hmem _ _
  · split at h <;> cases h
    next r hr => exact (hreg _ r).trans (isBitOperand_of_bitRegOf hr)

/-- Of the format N opcodes the bit instructions alone have a condition. -/
theorem wellFormed_of_decodeN {word0 word1 : Word} {i : Instr} (h : decodeN word0 word1 = .ok i) :
    i.wellFormed = true := by
  unfold decodeN at h
  split at h
  case h_10 | h_11 | h_12 | h_13 => exact wellFormed_of_decodeBit h (fun _ _ => rfl) (fun _ _ => rfl)
  all_goals
    simp only [decodeN0, decodeMoveReg, decodeLoad, decodeStore, decodeAccImm, decodeStatusImm, decodeBccShort,
      decodeLongTransfer, decodeDo] at h
    repeat' split at h
    all_goals cases h <;> rfl

theorem wellFormed_of_decodeWords {word0 word1 : Word} {i : Instr} (h : decodeWords word0 word1 = .ok i) :
    i.wellFormed = true := by
  unfold decodeWords at h
  split at h
  · exact wellFormed_of_decodeP h
  · split at h
    · cases h
      exact wellFormed_decodeD word0
    · exact wellFormed_of_decodeN h

/-- A checked decode reads the first word with the second, or with the zero that stands in for it. -/
theorem decodeWords_of_decodeChecked {word0 : Word} {word1 : Option Word} {i : Instr}
    (h : decodeChecked word0 word1 = .ok i) : decodeWords word0 (word1.getD 0) = .ok i := by
  cases word1 with
  | some w => exact h
  | none =>
    simp only [decodeChecked] at h
    repeat' split at h
    all_goals cases h
    assumption

/-- Settles O3: format by format, a decode answers with an opcode only after its checks. -/
theorem decodedOpcodesAreWellFormed : Obligations.DecodedOpcodesAreWellFormed := fun _ _ _ h =>
  wellFormed_of_decodeWords (decodeWords_of_decodeChecked (Machine.decode_eq_ok_iff.1 h))

end Sys2Proof.Coding
end

section
/-! PROOFS. The decode error of the addressing modes: which operand bits of a load and of a store have no
resolution, and that no other check of the decoder answers that error (O5). -/

namespace Sys2Proof.Coding

/-! ## The codes that name nothing (rules R36, R121) -/

/-- The 5-bit codes from 23 on name no register. -/
theorem regOf_eq_none_iff (c : BitVec 5) : regOf c = none ↔ 22 < c.toNat := by
  revert c
  decide

/-- Modes 6 and 7 alone have forms of their own. -/
theorem modeOf_eq_none_iff (m : BitVec 3) : modeOf m = none ↔ m = 6#3 ∨ m = 7#3 := by
  revert m
  decide

theorem ne_seven_of_modeOf {m : BitVec 3} {mode : Mode} (h : modeOf m = some mode) : m ≠ 7#3 := by
  rintro rfl
  simp at h

/-! ## The loads and the stores (rules R93, R127) -/

/-- A load has no form of mode 7 but those of `RR` 0 and 1; an unassigned register code outranks the mode
(rule R303). -/
theorem decodeLoad_eq_addressingMode_iff (x : BitVec 10) (word1 : Word) :
    decodeLoad x word1 = .error .addressingMode ↔
      (x.extractLsb' 5 5).toNat ≤ 22 ∧ x.extractLsb' 2 3 = 7#3 ∧
        x.extractLsb' 0 2 ≠ 0#2 ∧ x.extractLsb' 0 2 ≠ 1#2 := by
  rw [← Nat.not_lt, ← regOf_eq_none_iff, decodeLoad]
  cases regOf (x.extractLsb' 5 5) with
  | none => simp
  | some dst =>
    cases hm : modeOf (x.extractLsb' 2 3) with
    | some mode => simp [ne_seven_of_modeOf hm]
    | none =>
      rcases (modeOf_eq_none_iff _).1 hm with h6 | h7
      · simp [h6]
      · by_cases h0 : x.extractLsb' 0 2 = 0#2
        · simp [h7, h0]
        · simp [h7, h0]

/-- A store has no form of mode 7 but that of `RR` 0: an immediate cannot be a destination. -/
theorem decodeStore_eq_addressingMode_iff (x : BitVec 10) (word1 : Word) :
    decodeStore x word1 = .error .addressingMode ↔
      (x.extractLsb' 5 5).toNat ≤ 22 ∧ x.extractLsb' 2 3 = 7#3 ∧ x.extractLsb' 0 2 ≠ 0#2 := by
  rw [← Nat.not_lt, ← regOf_eq_none_iff, decodeStore]
  cases regOf (x.extractLsb' 5 5) with
  | none => simp
  | some src =>
    cases hm : modeOf (x.extractLsb' 2 3) with
    | some mode => simp [ne_seven_of_modeOf hm]
    | none =>
      rcases (modeOf_eq_none_iff _).1 hm with h6 | h7
      · simp [h6]
      · simp [h7]

/-! ## No other check answers the error (rule R301) -/

theorem decodeP_ne_addressingMode (word0 word1 : Word) : decodeP word0 word1 ≠ .error .addressingMode := by
  unfold decodeP
  split <;> simp

theorem decodeBit_ne_addressingMode (x : BitVec 10) (onReg : BitVec 4 → Reg → Instr)
    (onMem : BitVec 4 → AddrReg → Instr) : decodeBit x onReg onMem ≠ .error .addressingMode := by
  unfold decodeBit
  split
  all_goals split <;> simp

/-- Of the majors of format N, those of the loads and the stores alone answer it. -/
theorem decodeMajor_eq_addressingMode_iff (major : BitVec 4) (x : BitVec 10) (word1 : Word) :
    decodeMajor major x word1 = .error .addressingMode ↔
      major = 2#4 ∧ decodeLoad x word1 = .error .addressingMode ∨
        major = 3#4 ∧ decodeStore x word1 = .error .addressingMode := by
  by_cases h2 : major = 2#4
  · simp [h2, decodeMajor]
  by_cases h3 : major = 3#4
  · simp [h3, decodeMajor]
  simp only [h2, h3, false_and, or_self, iff_false]
  unfold decodeMajor
  split
  case h_3 h => exact absurd (BitVec.eq_of_toNat_eq h) h2
  case h_4 h => exact absurd (BitVec.eq_of_toNat_eq h) h3
  case h_10 | h_11 | h_12 | h_13 => exact decodeBit_ne_addressingMode _ _ _
  case h_14 => simp
  all_goals
    simp only [decodeN0, decodeMoveReg, decodeAccImm, decodeStatusImm, decodeBccShort, decodeLongTransfer, decodeDo]
    repeat' split
    all_goals simp

/-- Of the three formats, format N alone answers it. -/
theorem decodeWords_eq_addressingMode_iff (word0 word1 : Word) :
    decodeWords word0 word1 = .error .addressingMode ↔
      word0.extractLsb' 14 2 = 0#2 ∧ decodeN word0 word1 = .error .addressingMode := by
  have hformat : ∀ f : BitVec 2, f = 0#2 ∨ f = 1#2 ∨ f ≠ 0#2 ∧ f.extractLsb' 1 1 = 1#1 := by decide
  rcases hformat (word0.extractLsb' 14 2) with hN | hD | ⟨hne, hP⟩
  · simp [decodeWords_of_format_N hN, hN]
  · simp [decodeWords_of_format_D hD, hD]
  · have h15 : word0.extractLsb' 15 1 = 1#1 := (field_of_field rfl (by omega) (by omega)).trans hP
    simp [decodeWords_of_format_P h15, decodeP_ne_addressingMode, hne]

/-- A missing second word adds `IncompleteFetch` to what the checks answer, and no other error. -/
theorem decodeChecked_eq_error_iff {word0 : Word} {word1 : Option Word} {e : DecodeErrorName}
    (he : e ≠ .incompleteFetch) :
    decodeChecked word0 word1 = .error e ↔ decodeWords word0 (word1.getD 0) = .error e := by
  cases word1 with
  | some w => rfl
  | none =>
    rw [decodeChecked, Option.getD_none]
    cases decodeWords word0 0 with
    | error e' => rfl
    | ok i =>
      by_cases hsize : i.size = 2
      · simp [hsize, he.symm]
      · simp [hsize]

/-! ## The fields of the first word -/

/-- A field of a field. -/
theorem field_field {n s k p len : Nat} (x : BitVec n) (h : p + len ≤ k) :
    (x.extractLsb' s k).extractLsb' p len = x.extractLsb' (s + p) len := by
  rw [field_of_field (p := s + p) (len := len) (rfl : x.extractLsb' s k = _) (by omega) (by omega),
    Nat.add_sub_cancel_left]

/-- `word0[15:11]` tells the loads and the stores from every other word, and `word0[10]` tells them apart. -/
theorem format_and_major_iff (word0 : Word) :
    (word0.extractLsb' 14 2 = 0#2 ∧ word0.extractLsb' 10 4 = 2#4 ↔
        word0.extractLsb' 11 5 = 1#5 ∧ word0[10] = false) ∧
      (word0.extractLsb' 14 2 = 0#2 ∧ word0.extractLsb' 10 4 = 3#4 ↔
        word0.extractLsb' 11 5 = 1#5 ∧ word0[10] = true) := by
  have hbits : ∀ y : BitVec 6,
      (y.extractLsb' 4 2 = 0#2 ∧ y.extractLsb' 0 4 = 2#4 ↔ y.extractLsb' 1 5 = 1#5 ∧ y[0] = false) ∧
        (y.extractLsb' 4 2 = 0#2 ∧ y.extractLsb' 0 4 = 3#4 ↔ y.extractLsb' 1 5 = 1#5 ∧ y[0] = true) := by
    decide
  simpa [field_field] using hbits (word0.extractLsb' 10 6)

/-- The `RR` codes without a form, of a load and of a store. -/
theorem unresolved_iff (rr : BitVec 2) (store : Bool) :
    2 ≤ rr.toNat ∨ rr = 1#2 ∧ store = true ↔
      store = false ∧ rr ≠ 0#2 ∧ rr ≠ 1#2 ∨ store = true ∧ rr ≠ 0#2 := by
  revert rr store
  decide

/-- The first words of `AddressingModeError`, by their fields. -/
theorem decodeWords_eq_addressingMode_iff_fields (word0 word1 : Word) :
    decodeWords word0 word1 = .error .addressingMode ↔
      word0.extractLsb' 11 5 = 1#5 ∧ (word0.extractLsb' 5 5).toNat ≤ 22 ∧ word0.extractLsb' 2 3 = 7#3 ∧
        (2 ≤ (word0.extractLsb' 0 2).toNat ∨ word0.extractLsb' 0 2 = 1#2 ∧ word0[10] = true) := by
  obtain ⟨hload, hstore⟩ := format_and_major_iff word0
  rw [decodeWords_eq_addressingMode_iff, decodeN_eq_decodeMajor, decodeMajor_eq_addressingMode_iff,
    decodeLoad_eq_addressingMode_iff, decodeStore_eq_addressingMode_iff, field_field _ (by omega),
    field_field _ (by omega), field_field _ (by omega), unresolved_iff]
  tauto

/-- An error of code 2 with the first word is the words' own `AddressingModeError` (rules R301, R302). -/
theorem decode_error_code_two_iff (word0 : Word) (word1 : Option Word) :
    (∃ e, decode word0 word1 = .error e ∧ e.code = 2 ∧ e.word0 = word0) ↔
      decodeWords word0 (word1.getD 0) = .error .addressingMode := by
  rw [← decodeChecked_eq_error_iff (by decide)]
  constructor
  · rintro ⟨⟨name, word⟩, hdecode, hcode, -⟩
    obtain rfl : name = .addressingMode := Machine.decodeErrorName_code_injective hcode
    exact (Machine.decode_eq_error_iff.1 hdecode).1
  · intro h
    exact ⟨⟨.addressingMode, word0⟩, Machine.decode_eq_error_iff.2 ⟨h, rfl⟩, rfl, rfl⟩

/-- Settles O5: the loads and the stores alone answer the error, each for the forms of mode 7 it does not have. -/
theorem addressingModeErrorExactly : Obligations.AddressingModeErrorExactly := fun w0 w1 =>
  (decode_error_code_two_iff w0 w1).trans (decodeWords_eq_addressingMode_iff_fields w0 _)

end Sys2Proof.Coding
end

section
/-! PROOFS. From the words to the opcode and back: the encoder gives back the fields that the decoder has read,
format by format (O2). -/

namespace Sys2Proof.Coding

/-! ## A word is the concatenation of its fields -/

section Fields

variable {n₁ n₂ n₃ n₄ n₅ n₆ : Nat} {a : BitVec n₁} {b : BitVec n₂} {c : BitVec n₃} {d : BitVec n₄}
  {e : BitVec n₅} {f : BitVec n₆}

/-- Two neighbouring fields make the field of both. -/
theorem append_fields {n s : Nat} {x : BitVec n} (ha : x.extractLsb' (n₂ + s) n₁ = a)
    (hb : x.extractLsb' s n₂ = b) : a ++ b = x.extractLsb' s (n₁ + n₂) := by
  subst ha hb
  exact BitVec.extractLsb'_append_extractLsb'_eq_extractLsb' (Nat.add_comm n₂ s)

theorem append₂ {x : BitVec (n₁ + n₂)} (ha : x.extractLsb' n₂ n₁ = a) (hb : x.extractLsb' 0 n₂ = b) :
    a ++ b = x :=
  (append_fields (s := 0) ha hb).trans BitVec.extractLsb'_eq_self

theorem append₃ {x : BitVec (n₁ + n₂ + n₃)} (ha : x.extractLsb' (n₂ + n₃) n₁ = a)
    (hb : x.extractLsb' n₃ n₂ = b) (hc : x.extractLsb' 0 n₃ = c) : a ++ b ++ c = x :=
  append₂ (append_fields ha hb).symm hc

theorem append₄ {x : BitVec (n₁ + n₂ + n₃ + n₄)} (ha : x.extractLsb' (n₂ + (n₃ + n₄)) n₁ = a)
    (hb : x.extractLsb' (n₃ + n₄) n₂ = b) (hc : x.extractLsb' n₄ n₃ = c) (hd : x.extractLsb' 0 n₄ = d) :
    a ++ b ++ c ++ d = x :=
  append₃ (append_fields ha hb).symm hc hd

theorem append₅ {x : BitVec (n₁ + n₂ + n₃ + n₄ + n₅)} (ha : x.extractLsb' (n₂ + (n₃ + (n₄ + n₅))) n₁ = a)
    (hb : x.extractLsb' (n₃ + (n₄ + n₅)) n₂ = b) (hc : x.extractLsb' (n₄ + n₅) n₃ = c)
    (hd : x.extractLsb' n₅ n₄ = d) (he : x.extractLsb' 0 n₅ = e) : a ++ b ++ c ++ d ++ e = x :=
  append₄ (append_fields ha hb).symm hc hd he

theorem append₆ {x : BitVec (n₁ + n₂ + n₃ + n₄ + n₅ + n₆)}
    (ha : x.extractLsb' (n₂ + (n₃ + (n₄ + (n₅ + n₆)))) n₁ = a)
    (hb : x.extractLsb' (n₃ + (n₄ + (n₅ + n₆))) n₂ = b) (hc : x.extractLsb' (n₄ + (n₅ + n₆)) n₃ = c)
    (hd : x.extractLsb' (n₅ + n₆) n₄ = d) (he : x.extractLsb' n₆ n₅ = e) (hf : x.extractLsb' 0 n₆ = f) :
    a ++ b ++ c ++ d ++ e ++ f = x :=
  append₅ (append_fields ha hb).symm hc hd he hf

end Fields

/-- A one-bit field is its bit. -/
theorem field_one_eq {n i : Nat} {x : BitVec n} (h : i < n) : x.extractLsb' i 1 = BitVec.ofBool x[i] := by
  ext j hj
  obtain rfl : j = 0 := by omega
  simp [h]

theorem field_one_of_true {n i : Nat} {x : BitVec n} {h : i < n} (hx : x[i] = true) :
    x.extractLsb' i 1 = 1#1 := by
  rw [field_one_eq h, hx]; rfl

theorem field_one_of_false {n i : Nat} {x : BitVec n} {h : i < n} (hx : ¬ x[i] = true) :
    x.extractLsb' i 1 = 0#1 := by
  rw [field_one_eq h, Bool.eq_false_of_not_eq_true hx]; rfl

/-! ## Field codes: the encoder's tables invert the decoder's -/

theorem bit_accOf {n i : Nat} (x : BitVec n) (h : i < n) : x.extractLsb' i 1 = (accOf x[i]).bit := by
  rw [field_one_eq h]; cases x[i] <;> rfl

theorem bit_signOf {n i : Nat} (x : BitVec n) (h : i < n) : x.extractLsb' i 1 = (signOf x[i]).bit := by
  rw [field_one_eq h]; cases x[i] <;> rfl

theorem bit_slot1BaseOf {n i : Nat} (x : BitVec n) (h : i < n) :
    x.extractLsb' i 1 = (slot1BaseOf x[i]).bit := by
  rw [field_one_eq h]; cases x[i] <;> rfl

theorem bit_xRegOf {n i : Nat} (x : BitVec n) (h : i < n) : x.extractLsb' i 1 = (xRegOf x[i]).bit := by
  rw [field_one_eq h]; cases x[i] <;> rfl

theorem bit_yRegOf {n i : Nat} (x : BitVec n) (h : i < n) : x.extractLsb' i 1 = (yRegOf x[i]).bit := by
  rw [field_one_eq h]; cases x[i] <;> rfl

theorem code_dataRegOf (c : BitVec 2) : c = (dataRegOf c).code := by revert c; decide

theorem code_addrRegOf (c : BitVec 2) : c = (addrRegOf c).code := by revert c; decide

theorem code_pairOf (c : BitVec 3) : c = (pairOf c).code := by revert c; decide

theorem code_dualPairOf (c : BitVec 2) : c = (dualPairOf c).code := by revert c; decide

theorem code_dualModeOf (c : BitVec 2) : c = (dualModeOf c).code := by revert c; decide

theorem code_of_moveRegOf {c : BitVec 3} {r : MoveReg} (h : moveRegOf c = some r) : c = r.code := by
  cases r <;> revert c <;> decide

theorem code_of_regOf {c : BitVec 5} {r : Reg} (h : regOf c = some r) : c = r.code := by
  cases r <;> revert c <;> decide

theorem code_of_condOf {c : BitVec 4} {cond : Cond} (h : condOf c = some cond) : c = cond.code := by
  cases cond <;> revert c <;> decide

theorem code_of_modeOf {c : BitVec 3} {mode : Mode} (h : modeOf c = some mode) : c = mode.code := by
  cases mode <;> revert c <;> decide

theorem code_of_bitRegOf {c : BitVec 5} {r : Reg} (h : bitRegOf c = some r) : c = r.code := by
  unfold bitRegOf at h
  repeat' split at h
  all_goals cases h
  exact code_of_regOf ‹_›

theorem moveRegOf_eq_none_iff (c : BitVec 3) : moveRegOf c = none ↔ c = 6#3 ∨ c = 7#3 := by
  revert c
  decide

/-! ## The words of an opcode -/

/-- The encoder gives the opcode the first word `word0`, and no second word but `word1`. -/
def HasWords (i : Instr) (word0 word1 : Word) : Prop :=
  (encode i).1 = word0 ∧ ∀ w ∈ (encode i).2, w = word1

/-! ## Format P (rules R83 to R85) -/

/-- R84: the move has the field it was read from, and no datum but the extension word. -/
theorem code_of_decodeMove {v : BitVec 7} {word1 : Word} {m : PMove} (h : decodeMove v word1 = some m) :
    m.code = v ∧ ∀ w ∈ m.datum, w = word1 := by
  simp only [decodeMove] at h
  split at h
  case isTrue h6 =>
    split at h
    case h_1 r hr =>
      split at h <;> cases h
      case isTrue h5 =>
        exact ⟨append₄ (field_one_of_true h6) (field_one_of_true h5) (code_addrRegOf _) (code_of_moveRegOf hr),
          nofun⟩
      case isFalse h5 =>
        exact ⟨append₄ (field_one_of_true h6) (field_one_of_false h5) (code_addrRegOf _) (code_of_moveRegOf hr),
          nofun⟩
    case h_2 => cases h
  case isFalse h6 =>
    have h0 : v.extractLsb' 6 1 = 0#1 := field_one_of_false h6
    split at h
    case isTrue hz =>
      cases h
      obtain ⟨hs, hd⟩ := hz
      exact ⟨append₃ h0 hs hd, nofun⟩
    case isFalse =>
      split at h
      case h_1 src dst hs hd =>
        split at h <;> cases h
        exact ⟨append₃ h0 (code_of_moveRegOf hs) (code_of_moveRegOf hd), nofun⟩
      case h_2 src hs hd =>
        split at h <;> cases h
        case isTrue h6 => exact ⟨append₃ h0 (code_of_moveRegOf hs) h6, by simp [PMove.datum]⟩
      case h_3 dst hs hd =>
        split at h <;> cases h
        case isTrue h6 => exact ⟨append₃ h0 h6 (code_of_moveRegOf hd), by simp [PMove.datum]⟩
        case isFalse h6 =>
          exact ⟨append₃ h0 (((moveRegOf_eq_none_iff _).1 hs).resolve_left h6) (code_of_moveRegOf hd),
            by simp [PMove.datum]⟩
      case h_4 => cases h

/-- The operation byte of the arithmetic-logic class is its fields (rule R85). -/
theorem aluByte_eq {op : BitVec 8} {g j : BitVec 3} (h7 : ¬ op[7] = true)
    (hg : (op.extractLsb' 4 3).toNat = g.toNat) (hj : (op.extractLsb' 0 3).toNat = j.toNat) :
    aluByte g (accOf op[3]) j = op :=
  append₄ (field_one_of_false h7) (BitVec.eq_of_toNat_eq hg) (bit_accOf op _) (BitVec.eq_of_toNat_eq hj)

/-- The field `jjj` below 4 is a 2-bit code. -/
theorem jjj_of_lt {op : BitVec 8} {c : BitVec 2} (h : (op.extractLsb' 0 3).toNat < 4)
    (hc : op.extractLsb' 0 2 = c) : (op.extractLsb' 0 3).toNat = (0#1 ++ c).toNat := by
  subst hc
  revert op
  decide

/-- The field `jjj` from 4 on is a 2-bit code with the bit above it set. -/
theorem jjj_of_not_lt {op : BitVec 8} {c : BitVec 2} (h : ¬ (op.extractLsb' 0 3).toNat < 4)
    (hc : op.extractLsb' 0 2 = c) : (op.extractLsb' 0 3).toNat = (1#1 ++ c).toNat := by
  subst hc
  revert op
  decide

/-- The last of the 3-bit codes is the one that is none of the others. -/
theorem toNat_eq_seven {x : BitVec 3} (h0 : ¬ x.toNat = 0) (h1 : ¬ x.toNat = 1) (h2 : ¬ x.toNat = 2)
    (h3 : ¬ x.toNat = 3) (h4 : ¬ x.toNat = 4) (h5 : ¬ x.toNat = 5) (h6 : ¬ x.toNat = 6) :
    x.toNat = (7#3).toNat := by
  have := x.isLt
  simp only [BitVec.toNat_ofNat]
  omega

theorem encode_withNop (m : PMove) : encode (withNop m) = encodeP m 0x00 := by cases m <;> rfl

/-- R85, the arithmetic-logic class: the opcode has the operation byte it was read from. -/
theorem encode_of_decodeAlu {op : BitVec 8} {f : PMove → Instr} (h7 : ¬ op[7] = true)
    (h : decodeAlu op = some f) (m : PMove) : encode (f m) = encodeP m op := by
  unfold decodeAlu at h
  split at h
  case h_1 hg hj =>
    split at h <;> cases h
    next h3 =>
      rw [encode_withNop, ← aluByte_eq (g := 0#3) (j := 0#3) h7 hg hj, Bool.eq_false_of_not_eq_true h3]
      rfl
  case h_8 | h_16 =>
    cases h
    exact congrArg (encodeP m) (aluByte_eq h7 ‹_› (toNat_eq_seven ‹_› ‹_› ‹_› ‹_› ‹_› ‹_› ‹_›))
  case h_18 hg _ | h_20 hg _ | h_22 hg _ =>
    split at h <;> cases h
    next hlt => exact congrArg (encodeP m) (aluByte_eq h7 hg (jjj_of_lt hlt (code_dataRegOf _)))
  case h_23 hg =>
    split at h <;> cases h
    next hlt => exact congrArg (encodeP m) (aluByte_eq h7 hg (jjj_of_lt hlt (code_dataRegOf _)))
    next hge => exact congrArg (encodeP m) (aluByte_eq h7 hg (jjj_of_not_lt hge (code_dataRegOf _)))
  case h_24 hg =>
    split at h <;> cases h
    next hlt => exact congrArg (encodeP m) (aluByte_eq h7 hg (jjj_of_lt hlt (code_dataRegOf _)))
    next hge => exact congrArg (encodeP m) (aluByte_eq h7 hg (jjj_of_not_lt hge (code_addrRegOf _)))
  case h_25 =>
    have hg : (op.extractLsb' 4 3).toNat = (7#3).toNat := toNat_eq_seven ‹_› ‹_› ‹_› ‹_› ‹_› ‹_› ‹_›
    split at h <;> cases h
    next hlt => exact congrArg (encodeP m) (aluByte_eq h7 hg (jjj_of_lt hlt (code_dataRegOf _)))
  all_goals
    cases h
    exact congrArg (encodeP m) (aluByte_eq h7 ‹_› ‹_›)

theorem mulByte_eq {op : BitVec 8} {o : BitVec 2} (h7 : op[7] = true)
    (ho : (op.extractLsb' 4 2).toNat = o.toNat) :
    mulByte (signOf op[6]) o (accOf op[3]) (pairOf (op.extractLsb' 0 3)) = op :=
  append₅ (field_one_of_true h7) (bit_signOf op _) (BitVec.eq_of_toNat_eq ho) (bit_accOf op _) (code_pairOf _)

/-- The last of the 2-bit codes is the one that is none of the others. -/
theorem toNat_eq_three {x : BitVec 2} (h0 : ¬ x.toNat = 0) (h1 : ¬ x.toNat = 1) (h2 : ¬ x.toNat = 2) :
    x.toNat = (3#2).toNat := by
  have := x.isLt
  simp only [BitVec.toNat_ofNat]
  omega

/-- R85, the multiply class: the opcode has the operation byte it was read from. -/
theorem encode_of_decodeMul {op : BitVec 8} {f : PMove → Instr} (h7 : op[7] = true) (h : decodeMul op = f)
    (m : PMove) : encode (f m) = encodeP m op := by
  unfold decodeMul at h
  split at h
  case h_4 =>
    cases h
    exact congrArg (encodeP m) (mulByte_eq h7 (toNat_eq_three ‹_› ‹_› ‹_›))
  all_goals
    cases h
    exact congrArg (encodeP m) (mulByte_eq h7 ‹_›)

/-- R85: the opcode has the move and the operation byte it was read from. -/
theorem encode_of_decodeOp {op : BitVec 8} {f : PMove → Instr} (h : decodeOp op = some f) (m : PMove) :
    encode (f m) = encodeP m op := by
  unfold decodeOp at h
  split at h
  case isTrue h7 => exact encode_of_decodeMul h7 (Option.some.inj h) m
  case isFalse h7 => exact encode_of_decodeAlu h7 h m

theorem hasWords_of_decodeP {word0 word1 : Word} {i : Instr} (hP : word0.extractLsb' 15 1 = 1#1)
    (h : decodeP word0 word1 = .ok i) : HasWords i word0 word1 := by
  unfold decodeP at h
  split at h <;> cases h
  next m f hm hf =>
    obtain ⟨hcode, hdatum⟩ := code_of_decodeMove hm
    rw [HasWords, encode_of_decodeOp hf]
    exact ⟨append₃ hP hcode.symm rfl, hdatum⟩

/-! ## Format D (rules R87 to R89) -/

/-- R88, R89: the dual move has the bits it was read from. -/
theorem code_decodeDMove (word0 : Word) : word0.extractLsb' 6 8 = (decodeDMove word0).code := by
  have hbit : ∀ {s len : Nat}, s + len ≤ 8 →
      (word0.extractLsb' 6 8).extractLsb' s len = word0.extractLsb' (6 + s) len := field_field word0
  unfold decodeDMove
  split
  case isTrue h13 =>
    exact (append₅ ((hbit (by omega)).trans (field_one_of_true h13))
      ((hbit (by omega)).trans (code_dataRegOf _)) ((hbit (by omega)).trans (code_dataRegOf _))
      ((hbit (by omega)).trans (bit_accOf word0 _)) ((hbit (by omega)).trans (code_dataRegOf _))).symm
  case isFalse h13 =>
    exact (append₆ ((hbit (by omega)).trans (field_one_of_false h13))
      ((hbit (by omega)).trans (bit_slot1BaseOf word0 _)) ((hbit (by omega)).trans (code_dualModeOf _))
      ((hbit (by omega)).trans (bit_xRegOf word0 _)) ((hbit (by omega)).trans (code_dualModeOf _))
      ((hbit (by omega)).trans (bit_yRegOf word0 _))).symm

theorem encodeD_eq {word0 : Word} {o : BitVec 2} (hD : word0.extractLsb' 14 2 = 1#2)
    (ho : (word0.extractLsb' 3 2).toNat = o.toNat) :
    encodeD (decodeDMove word0) (signOf word0[5]) o (accOf word0[2]) (dualPairOf (word0.extractLsb' 0 2)) =
      (word0, none) :=
  congrArg (·, none) (append₆ hD (code_decodeDMove word0) (bit_signOf word0 _) (BitVec.eq_of_toNat_eq ho)
    (bit_accOf word0 _) (code_dualPairOf _))

theorem encode_withMpy (m : DMove) (k : Sign) (q : DualPair) (d : Acc) :
    encode (withMpy m k q d) = encodeD m k 0 d q := by cases m <;> rfl

/-- R87: a format D opcode has the word it was read from. -/
theorem encode_decodeD {word0 : Word} (hD : word0.extractLsb' 14 2 = 1#2) :
    encode (decodeD word0) = (word0, none) := by
  unfold decodeD
  split
  case h_1 h0 => exact (encode_withMpy _ _ _ _).trans (encodeD_eq hD h0)
  case h_4 => exact encodeD_eq hD (toNat_eq_three ‹_› ‹_› ‹_›)
  all_goals exact encodeD_eq hD ‹_›

/-! ## Format N (rules R90 to R100) -/

/-- The words of an opcode that is encoded in one format N word. -/
theorem hasWords_of_encodeN {i : Instr} {major : BitVec 4} {x y : BitVec 10} (word1 : Word)
    (he : encode i = encodeN major y) (hx : y = x) : HasWords i (0#2 ++ major ++ x) word1 := by
  rw [HasWords, he, hx]
  exact ⟨rfl, nofun⟩

/-- The words of an opcode that is encoded in two format N words. -/
theorem hasWords_of_encodeN2 {i : Instr} {major : BitVec 4} {x y : BitVec 10} {word1 : Word}
    (he : encode i = encodeN2 major y word1) (hx : y = x) : HasWords i (0#2 ++ major ++ x) word1 := by
  rw [HasWords, he, hx]
  exact ⟨rfl, fun w hw => (Option.some.inj hw).symm⟩

section Majors

variable {x : BitVec 10} {word1 : Word} {i : Instr}

theorem hasWords_of_decodeN0 (h : decodeN0 x = .ok i) : HasWords i (0#2 ++ 0#4 ++ x) word1 := by
  unfold decodeN0 at h
  split at h <;> cases h
  all_goals exact hasWords_of_encodeN word1 rfl (BitVec.eq_of_toNat_eq (Eq.symm ‹_›))

theorem hasWords_of_decodeMoveReg (h : decodeMoveReg x = .ok i) : HasWords i (0#2 ++ 1#4 ++ x) word1 := by
  unfold decodeMoveReg at h
  split at h <;> cases h
  next hs hd => exact hasWords_of_encodeN word1 rfl (append₂ (code_of_regOf hs) (code_of_regOf hd))

theorem hasWords_of_decodeLoad (h : decodeLoad x word1 = .ok i) : HasWords i (0#2 ++ 2#4 ++ x) word1 := by
  simp only [decodeLoad] at h
  split at h
  case h_1 => cases h
  case h_2 dst hr =>
    have hr := code_of_regOf hr
    split at h
    case h_1 mode hm =>
      cases h
      exact hasWords_of_encodeN word1 rfl (append₃ hr (code_of_modeOf hm) (code_addrRegOf _))
    case h_2 hm =>
      split at h
      case isTrue h6 =>
        cases h
        exact hasWords_of_encodeN2 rfl (append₃ hr h6 (code_addrRegOf _))
      case isFalse h6 =>
        have h7 := ((modeOf_eq_none_iff _).1 hm).resolve_left h6
        split at h
        case isTrue h0 =>
          cases h
          exact hasWords_of_encodeN2 rfl (append₃ hr h7 h0)
        case isFalse =>
          split at h <;> cases h
          next h1 => exact hasWords_of_encodeN2 rfl (append₃ hr h7 h1)

theorem hasWords_of_decodeStore (h : decodeStore x word1 = .ok i) : HasWords i (0#2 ++ 3#4 ++ x) word1 := by
  simp only [decodeStore] at h
  split at h
  case h_1 => cases h
  case h_2 src hr =>
    have hr := code_of_regOf hr
    split at h
    case h_1 mode hm =>
      cases h
      exact hasWords_of_encodeN word1 rfl (append₃ hr (code_of_modeOf hm) (code_addrRegOf _))
    case h_2 hm =>
      split at h
      case isTrue h6 =>
        cases h
        exact hasWords_of_encodeN2 rfl (append₃ hr h6 (code_addrRegOf _))
      case isFalse h6 =>
        have h7 := ((modeOf_eq_none_iff _).1 hm).resolve_left h6
        split at h <;> cases h
        next h0 => exact hasWords_of_encodeN2 rfl (append₃ hr h7 h0)

theorem hasWords_of_decodeAccImm (h : decodeAccImm x word1 = .ok i) : HasWords i (0#2 ++ 4#4 ++ x) word1 := by
  have haccImmBits : x.extractLsb' 0 6 = 0#6 → ∀ o : BitVec 3, (x.extractLsb' 7 3).toNat = o.toNat →
      accImmBits o (accOf x[6]) = x := fun h0 o ho =>
    append₃ (BitVec.eq_of_toNat_eq ho) (bit_accOf x _) h0
  unfold decodeAccImm at h
  split at h
  case isTrue h0 =>
    split at h <;> cases h
    all_goals exact hasWords_of_encodeN2 rfl (haccImmBits h0 _ ‹_›)
  case isFalse => cases h

theorem hasWords_of_decodeStatusImm (h : decodeStatusImm x = .ok i) :
    HasWords i (0#2 ++ 5#4 ++ x) word1 := by
  unfold decodeStatusImm at h
  split at h
  case isTrue => cases h
  case isFalse h8 =>
    have h8 := field_one_of_false h8
    split at h <;> cases h
    next h9 => exact hasWords_of_encodeN word1 rfl (append₃ (field_one_of_true h9) h8 rfl)
    next h9 => exact hasWords_of_encodeN word1 rfl (append₃ (field_one_of_false h9) h8 rfl)

theorem hasWords_of_decodeBccShort (h : decodeBccShort x = .ok i) : HasWords i (0#2 ++ 8#4 ++ x) word1 := by
  unfold decodeBccShort at h
  split at h <;> cases h
  next hc => exact hasWords_of_encodeN word1 rfl (append₂ (code_of_condOf hc) rfl)

theorem hasWords_of_decodeLongTransfer (h : decodeLongTransfer x word1 = .ok i) :
    HasWords i (0#2 ++ 10#4 ++ x) word1 := by
  unfold decodeLongTransfer at h
  split at h
  case h_1 => cases h
  case h_2 c hc =>
    have hc := code_of_condOf hc
    split at h
    case isFalse => cases h
    case isTrue hz =>
      split at h
      case h_1 hkind | h_2 hkind =>
        split at h <;> cases h
        next h0 => exact hasWords_of_encodeN2 rfl (append₄ hc (BitVec.eq_of_toNat_eq hkind) hz h0)
      case h_3 hkind =>
        cases h
        exact hasWords_of_encodeN word1 rfl (append₄ hc (BitVec.eq_of_toNat_eq hkind) hz (code_addrRegOf _))
      case h_4 => cases h

theorem hasWords_of_decodeDo (h : decodeDo x = .ok i) : HasWords i (0#2 ++ 11#4 ++ x) word1 := by
  unfold decodeDo at h
  split at h
  case isTrue h9 =>
    split at h
    case isTrue hz =>
      split at h <;> cases h
      next hr => exact hasWords_of_encodeN word1 rfl (append₃ (field_one_of_true h9) hz (code_of_regOf hr))
    case isFalse => cases h
  case isFalse h9 =>
    split at h <;> cases h
    next h8 =>
      exact hasWords_of_encodeN word1 rfl (append₃ (field_one_of_false h9) (field_one_of_false h8) rfl)

/-- R100: the words of a bit instruction, for each of the four. -/
theorem hasWords_of_decodeBit {major : BitVec 4} {onReg : BitVec 4 → Reg → Instr}
    {onMem : BitVec 4 → AddrReg → Instr} (h : decodeBit x onReg onMem = .ok i)
    (hreg : ∀ bit r, encode (onReg bit r) = encodeN major (bit ++ r.code ++ 0#1))
    (hmem : ∀ bit rn, encode (onMem bit rn) = encodeN major (bit ++ 0#3 ++ rn.code ++ 1#1)) :
    HasWords i (0#2 ++ major ++ x) word1 := by
  unfold decodeBit at h
  split at h
  case isTrue h0 =>
    split at h <;> cases h
    next hz =>
      exact hasWords_of_encodeN word1 (hmem _ _)
        (append₄ rfl hz (code_addrRegOf _) (field_one_of_true h0))
  case isFalse h0 =>
    split at h <;> cases h
    next hr =>
      exact hasWords_of_encodeN word1 (hreg _ _) (append₃ rfl (code_of_bitRegOf hr) (field_one_of_false h0))

/-- R90: the words of a format N opcode, major by major. -/
theorem hasWords_of_decodeMajor {major : BitVec 4} (h : decodeMajor major x word1 = .ok i) :
    HasWords i (0#2 ++ major ++ x) word1 := by
  have hmajor (n : BitVec 4) (hn : major.toNat = n.toNat) (hi : HasWords i (0#2 ++ n ++ x) word1) :
      HasWords i (0#2 ++ major ++ x) word1 := BitVec.eq_of_toNat_eq hn ▸ hi
  unfold decodeMajor at h
  split at h
  case h_1 hn => exact hmajor 0 hn (hasWords_of_decodeN0 h)
  case h_2 hn => exact hmajor 1 hn (hasWords_of_decodeMoveReg h)
  case h_3 hn => exact hmajor 2 hn (hasWords_of_decodeLoad h)
  case h_4 hn => exact hmajor 3 hn (hasWords_of_decodeStore h)
  case h_5 hn => exact hmajor 4 hn (hasWords_of_decodeAccImm h)
  case h_6 hn => exact hmajor 5 hn (hasWords_of_decodeStatusImm h)
  case h_7 hn => exact hmajor 8 hn (hasWords_of_decodeBccShort h)
  case h_8 hn => exact hmajor 10 hn (hasWords_of_decodeLongTransfer h)
  case h_9 hn => exact hmajor 11 hn (hasWords_of_decodeDo h)
  case h_10 hn => exact hmajor 12 hn (hasWords_of_decodeBit h (fun _ _ => rfl) fun _ _ => rfl)
  case h_11 hn => exact hmajor 13 hn (hasWords_of_decodeBit h (fun _ _ => rfl) fun _ _ => rfl)
  case h_12 hn => exact hmajor 14 hn (hasWords_of_decodeBit h (fun _ _ => rfl) fun _ _ => rfl)
  case h_13 hn => exact hmajor 15 hn (hasWords_of_decodeBit h (fun _ _ => rfl) fun _ _ => rfl)
  case h_14 => cases h

end Majors

/-! ## The round trip from the words -/

/-- The three formats by the top bits of the first word (rule R81). -/
theorem format_cases (word0 : Word) :
    word0.extractLsb' 14 2 = 0#2 ∨ word0.extractLsb' 14 2 = 1#2 ∨ word0.extractLsb' 15 1 = 1#1 := by
  have hformat : ∀ f : BitVec 2, f = 0#2 ∨ f = 1#2 ∨ f.extractLsb' 1 1 = 1#1 := by decide
  simpa [field_field] using hformat (word0.extractLsb' 14 2)

/-- R261: a decoded opcode has the words it was decoded from. -/
theorem hasWords_of_decodeWords {word0 word1 : Word} {i : Instr} (h : decodeWords word0 word1 = .ok i) :
    HasWords i word0 word1 := by
  rcases format_cases word0 with hN | hD | hP
  · rw [decodeWords_of_format_N hN, decodeN_eq_decodeMajor] at h
    have hword : 0#2 ++ word0.extractLsb' 10 4 ++ word0.extractLsb' 0 10 = word0 := append₃ hN rfl rfl
    exact hword ▸ hasWords_of_decodeMajor h
  · rw [decodeWords_of_format_D hD] at h
    cases h
    rw [HasWords, encode_decodeD hD]
    exact ⟨rfl, nofun⟩
  · rw [decodeWords_of_format_P hP] at h
    exact hasWords_of_decodeP hP h

/-- Settles O2: every table of the encoder gives back the code that the decoder has read, and an opcode has a
second word exactly where it is two words long. -/
theorem encodeOfDecode : Obligations.EncodeOfDecode := by
  intro w0 w1 i h
  obtain ⟨h0, h1⟩ := hasWords_of_decodeWords (decodeWords_of_decodeChecked (Machine.decode_eq_ok_iff.1 h))
  refine ⟨h0, ?_⟩
  rw [size_eq_wordCount i]
  cases hw : (encode i).2 with
  | none => rfl
  | some w => exact congrArg some (h1 w hw)

end Sys2Proof.Coding
end

section
/-! PROOFS. The reference step: what a first word alone decides, and the step as the evaluation of the opcode
whose words stand at `pc` (O7, O8, O9, O11). -/

namespace Sys2Proof.Coding

/-! ## The first word alone decides whether a decode succeeds, and with which size (rules R80, R303) -/

theorem decodeMove_map_size (v : BitVec 7) (word1 word1' : Word) :
    (decodeMove v word1).map PMove.size = (decodeMove v word1').map PMove.size := by
  simp only [decodeMove]
  repeat' split
  all_goals rfl

/-- The operation byte adds no word to those of the move. -/
theorem size_of_decodeOp {op : BitVec 8} {f : PMove → Instr} (h : decodeOp op = some f) (m : PMove) :
    (f m).size = m.size := by
  rw [size_eq_wordCount, encode_of_decodeOp h, Laws.wordCount_move]
  rfl

theorem decodeP_map_size (word0 word1 word1' : Word) :
    (decodeP word0 word1).map Instr.size = (decodeP word0 word1').map Instr.size := by
  have hmove := decodeMove_map_size (word0.extractLsb' 8 7) word1 word1'
  unfold decodeP
  cases hm : decodeMove (word0.extractLsb' 8 7) word1 with
  | none =>
    rw [hm] at hmove
    rw [Option.map_eq_none_iff.1 hmove.symm]
  | some m =>
    rw [hm] at hmove
    obtain ⟨m', hm', hsize⟩ := Option.map_eq_some_iff.1 hmove.symm
    rw [hm']
    cases hop : decodeOp (word0.extractLsb' 0 8) with
    | none => rfl
    | some f =>
      exact congrArg Except.ok ((size_of_decodeOp hop m).trans (hsize.symm.trans (size_of_decodeOp hop m').symm))

/-- The second word of a format N opcode is a datum and nothing more. -/
theorem decodeMajor_map_size (major : BitVec 4) (x : BitVec 10) (word1 word1' : Word) :
    (decodeMajor major x word1).map Instr.size = (decodeMajor major x word1').map Instr.size := by
  unfold decodeMajor
  split
  case h_3 | h_4 | h_5 | h_8 =>
    simp only [decodeLoad, decodeStore, decodeAccImm, decodeLongTransfer]
    repeat' split
    all_goals rfl
  all_goals rfl

theorem decodeWords_map_size (word0 word1 word1' : Word) :
    (decodeWords word0 word1).map Instr.size = (decodeWords word0 word1').map Instr.size := by
  rcases format_cases word0 with hN | hD | hP
  · simp only [decodeWords_of_format_N hN, decodeN_eq_decodeMajor]
    exact decodeMajor_map_size _ _ _ _
  · simp only [decodeWords_of_format_D hD]
  · simp only [decodeWords_of_format_P hP]
    exact decodeP_map_size _ _ _

/-- Where a first word decodes with one second word, it decodes with any, to an opcode of the same size. -/
theorem decodeWords_of_size {word0 word1 : Word} {i : Instr} (h : decodeWords word0 word1 = .ok i)
    (word1' : Word) : ∃ i', decodeWords word0 word1' = .ok i' ∧ i'.size = i.size := by
  have hsize := decodeWords_map_size word0 word1 word1'
  rw [h] at hsize
  cases h' : decodeWords word0 word1' with
  | error e => rw [h'] at hsize; cases hsize
  | ok i' => rw [h'] at hsize; exact ⟨i', rfl, (Except.ok.inj hsize).symm⟩

/-! ## `IncompleteFetch` (rule R304) -/

theorem decodeMajor_ne_incompleteFetch (major : BitVec 4) (x : BitVec 10) (word1 : Word) :
    decodeMajor major x word1 ≠ .error .incompleteFetch := by
  unfold decodeMajor
  split
  case h_14 => simp
  all_goals
    simp only [decodeN0, decodeMoveReg, decodeLoad, decodeStore, decodeAccImm, decodeStatusImm, decodeBccShort,
      decodeLongTransfer, decodeDo, decodeBit]
    repeat' split
    all_goals simp

/-- No check of the two words answers the error: it is the missing second word's alone. -/
theorem decodeWords_ne_incompleteFetch (word0 word1 : Word) :
    decodeWords word0 word1 ≠ .error .incompleteFetch := by
  rcases format_cases word0 with hN | hD | hP
  · rw [decodeWords_of_format_N hN, decodeN_eq_decodeMajor]
    exact decodeMajor_ne_incompleteFetch _ _ _
  · simp [decodeWords_of_format_D hD]
  · rw [decodeWords_of_format_P hP, decodeP]
    split <;> simp

/-- `IncompleteFetch` is a two-word opcode without its second word, whatever that word would be. -/
theorem decode_eq_incompleteFetch_iff (word0 word1 : Word) :
    decode word0 none = .error ⟨.incompleteFetch, word0⟩ ↔
      ∃ i, decodeWords word0 word1 = .ok i ∧ i.size = 2 := by
  simp only [Machine.decode_eq_error_iff, and_true, decodeChecked]
  cases h0 : decodeWords word0 0 with
  | error e =>
    have hne : e ≠ .incompleteFetch := fun he => decodeWords_ne_incompleteFetch word0 0 (he ▸ h0)
    constructor
    · intro h
      exact absurd (Except.error.inj h) hne
    · rintro ⟨i, hi, -⟩
      obtain ⟨i0, hi0, -⟩ := decodeWords_of_size hi 0
      cases h0.symm.trans hi0
  | ok i0 =>
    obtain ⟨i, hi, hsize⟩ := decodeWords_of_size h0 word1
    simp [hi, hsize]

end Sys2Proof.Coding

namespace Sys2Proof.Machine

/-! ## Evaluation -/

/-- Settles O11: every meaning is one evaluation, and no evaluation writes P space. -/
theorem evaluationNeverFails : Obligations.EvaluationNeverFails := fun i s =>
  ⟨_, exec_eq_evaluateOpcode i s, evaluateWith_pmem _ _ _ _ _ s⟩

/-! ## The step -/

theorem step_of_decodeAtPc_ok {s : State} {i : Instr} (h : s.decodeAtPc = .ok i) : step s = exec i s := by
  rw [step, h]

theorem step_of_decodeAtPc_error {s : State} {e : DecodeError} (h : s.decodeAtPc = .error e) :
    step s = .fault (.stopped e s.pc (s.fetch s.pc)) := by
  rw [step, h]

/-- Where the first word is not in need of a second one, it is decoded alone. -/
theorem decodeAtPc_of_one_word {s : State}
    (h : decode (s.fetch s.pc) none ≠ .error ⟨.incompleteFetch, s.fetch s.pc⟩) :
    s.decodeAtPc = decode (s.fetch s.pc) none := by
  rcases decodeAtPc_cases s with ⟨he, -⟩ | ⟨-, hd⟩
  · exact absurd he h
  · exact hd

/-- Where the first word needs a second one, the two words at `pc` are decoded. -/
theorem decodeAtPc_of_two_words {s : State}
    (h : decode (s.fetch s.pc) none = .error ⟨.incompleteFetch, s.fetch s.pc⟩) :
    s.decodeAtPc = decode (s.fetch s.pc) (some (s.fetch (s.pc + 1))) := by
  rcases decodeAtPc_cases s with ⟨-, hd⟩ | ⟨hne, -⟩
  · exact hd
  · exact absurd h (hne _)

theorem decodeAtPc_of_decode_none {s : State} {i : Instr} (h : decode (s.fetch s.pc) none = .ok i) :
    s.decodeAtPc = .ok i :=
  (decodeAtPc_of_one_word (by simp [h])).trans h

/-- Settles O7: the decode at `pc` answers that opcode, and the step evaluates it. -/
theorem stepRunsTheDecodedOpcode : Obligations.StepRunsTheDecodedOpcode := by
  rintro s i (h | ⟨hneed, h⟩)
  · exact step_of_decodeAtPc_ok (decodeAtPc_of_decode_none h)
  · exact step_of_decodeAtPc_ok ((decodeAtPc_of_two_words hneed).trans h)

/-- Settles O8: a placed opcode decodes from its own words (O1), and its first word asks for a second exactly where
it has one. -/
theorem stepRunsThePlacedOpcode : Obligations.StepRunsThePlacedOpcode := by
  intro s i hi h0 h1
  have hdecode : decode (s.fetch s.pc) (encode i).2 = .ok i := h0 ▸ Coding.decodeOfEncode i hi
  apply stepRunsTheDecodedOpcode
  cases hw : (encode i).2 with
  | none => exact .inl (hw ▸ hdecode)
  | some w =>
    have hsize : i.size = 2 := by rw [Coding.size_eq_wordCount, hw]; rfl
    rw [hw, ← h1 w hw] at hdecode
    have hwords := Coding.decodeWords_of_decodeChecked (decode_eq_ok_iff.1 hdecode)
    exact .inr ⟨(Coding.decode_eq_incompleteFetch_iff _ _).2 ⟨i, hwords, hsize⟩, hdecode⟩

/-- A first word that is decodable, or in need of a second one, decodes at `pc`. -/
theorem decodeAtPc_ok_of_decodable {s : State}
    (h : ∀ e, decode (s.fetch s.pc) none = .error e → e.name = .incompleteFetch) :
    ∃ i, s.decodeAtPc = .ok i := by
  cases hd : decode (s.fetch s.pc) none with
  | ok i => exact ⟨i, decodeAtPc_of_decode_none hd⟩
  | error e =>
    obtain ⟨name, word⟩ := e
    obtain rfl : name = .incompleteFetch := h _ hd
    obtain rfl : word = s.fetch s.pc := decode_error_word0 hd
    obtain ⟨i, hi, -⟩ := (Coding.decode_eq_incompleteFetch_iff _ (s.fetch (s.pc + 1))).1 hd
    exact ⟨i, (decodeAtPc_of_two_words hd).trans (decode_eq_ok_iff.2 hi)⟩

/-- Settles O9: the decode at `pc` gives back the error of an undecodable first word, and an opcode for every other
word; the evaluation of an opcode has a next state. -/
theorem stepGoesOnOrStops : Obligations.StepGoesOnOrStops := by
  intro s
  refine ⟨fun e he hname => ⟨decode_error_word0 he, ?_⟩, fun h => ?_⟩
  · have hone : s.decodeAtPc = .error e :=
      (decodeAtPc_of_one_word fun hd => hname (Except.error.inj (he.symm.trans hd) ▸ rfl)).trans he
    exact step_of_decodeAtPc_error hone
  · obtain ⟨i, hi⟩ := decodeAtPc_ok_of_decodable h
    obtain ⟨t, ht, -⟩ := evaluationNeverFails i s
    exact ⟨i, t, hi, ht, (step_of_decodeAtPc_ok hi).trans ht⟩

end Sys2Proof.Machine
end

section
/-! PROOFS. One opcode on two states, and the registers it can change: an evaluation is one list of writes, so what
two states share is kept where every write keeps it (O10, O15, O22). -/

namespace Sys2Proof.Machine

/-! ## The destinations (O15) -/

@[simp] theorem home_addrName (n : AddrReg) : home (addrName n) = addrName n := by cases n <;> rfl

@[simp] theorem home_dataName (r : DataReg) : home (dataName r) = dataName r := by cases r <;> rfl

@[simp] theorem home_moveName (r : MoveReg) : home (moveName r) = moveName r := by cases r <;> rfl

@[simp] theorem home_xName (r : XReg) : home (xName r) = xName r := by cases r <;> rfl

@[simp] theorem home_yName (r : YReg) : home (yName r) = yName r := by cases r <;> rfl

/-- The register a mode updates is the one the resolver's update names (rule R121). -/
theorem modeUpdates_eq (mode : Mode) (n : AddrReg) (s : State) :
    modeUpdates mode n = (updateList (resolve (addrModeOf mode n) s)).map fun u => addrName u.reg := by
  cases mode <;> rfl

theorem home_of_mem_modeUpdates (mode : Mode) (n : AddrReg) : ∀ r ∈ modeUpdates mode n, home r = r := by
  cases mode <;> simp [modeUpdates]

theorem home_of_mem_moveRegs (m : PMove) : ∀ r ∈ moveRegs m, home r = r := by
  cases m <;> simp [moveRegs]

theorem home_of_mem_dualRegs (m : DMove) : ∀ r ∈ dualRegs m, home r = r := by
  cases m with
  | dualread base mode1 dst1 mode2 dst2 =>
    have h1 := home_of_mem_modeUpdates (dualModeOfMode mode1) (slot1Addr base)
    have h2 := home_of_mem_modeUpdates (dualModeOfMode mode2) .r3
    simpa [dualRegs, or_imp, forall_and] using ⟨h1, h2⟩
  | dualreg => simp [dualRegs]

/-- A parallel move writes whole registers. -/
theorem home_of_mem_moveRegsOf (i : Instr) : ∀ r ∈ moveRegsOf i, home r = r := by
  unfold moveRegsOf
  split
  · exact home_of_mem_moveRegs _
  · exact home_of_mem_dualRegs _
  · exact nofun

theorem loadHalf_updates (dst : Reg) (mode : AddrMode) (s : State) :
    (loadHalf dst mode s).updates = updateList (resolve mode s) := by
  cases mode <;> rfl

/-- The address registers an instruction half updates are among its destinations (rules R221, R222). -/
theorem addrName_mem_destinationList {i : Instr} {s : State} {u : Update} (h : u ∈ (instrHalfOf i s).updates) :
    addrName u.reg ∈ destinationList i := by
  cases i with
  | moveLoad dst mode rn =>
    rw [instrHalfOf, loadHalf_updates] at h
    rw [destinationList, modeUpdates_eq mode rn s]
    exact List.mem_cons_of_mem _ (List.mem_map_of_mem h)
  | moveStore src mode rn =>
    rw [destinationList, modeUpdates_eq mode rn s]
    exact List.mem_map_of_mem h
  | next =>
    simp only [instrHalfOf, nextHalf] at h
    split at h <;> cases h
  | _ => cases h

theorem addrName_mem_moveRegs {m : PMove} {s : State} {u : Update} (h : u ∈ (moveHalf m s).updates) :
    addrName u.reg ∈ moveRegs m := by
  cases m with
  | memread rn dst =>
    obtain rfl := List.mem_singleton.1 h
    exact List.mem_cons_of_mem _ (List.mem_singleton_self _)
  | memwrite src rn =>
    obtain rfl := List.mem_singleton.1 h
    exact List.mem_singleton_self _
  | _ => cases h

theorem addrName_mem_dualRegs {m : DMove} {s : State} {u : Update} (h : u ∈ (dualHalf m s).updates) :
    addrName u.reg ∈ dualRegs m := by
  cases m with
  | dualread base mode1 dst1 mode2 dst2 =>
    rw [dualRegs, modeUpdates_eq _ _ s, modeUpdates_eq _ .r3 s, List.append_assoc, ← List.map_append]
    exact List.mem_append_right _ (List.mem_map_of_mem h)
  | dualreg => cases h

/-- The address registers a move half updates are among those of the move (rules R146 to R148). -/
theorem addrName_mem_moveRegsOf {i : Instr} {s : State} {u : Update} (h : u ∈ (moveHalfOf i s).updates) :
    addrName u.reg ∈ moveRegsOf i := by
  rcases moveHalfOf_cases i s with ⟨m, hp, e⟩ | ⟨m, hp, hd, e⟩ | ⟨-, -, e⟩
  · rw [moveRegsOf, hp]
    exact addrName_mem_moveRegs (e ▸ h)
  · rw [moveRegsOf, hp, hd]
    exact addrName_mem_dualRegs (e ▸ h)
  · rw [e] at h
    cases h

/-- The whole registers of a write inside a footprint are those of the footprint, and `SR` for the flags. -/
theorem Write.Within.mem_regs {fp : Footprint} {w : Write} (h : w.Within fp) {r : Reg} (hr : r ∈ w.regs) :
    r = .sr ∨ r ∈ fp.regs.map home := by
  cases w with
  | reg c v =>
    obtain rfl := List.mem_singleton.1 hr
    exact .inr h
  | acc d v =>
    obtain rfl := List.mem_singleton.1 hr
    exact .inr (List.mem_map.2 ⟨_, h, home_accName d⟩)
  | mem addr v => cases hr
  | push la lc => exact .inl (List.mem_singleton.1 hr)
  | pop =>
    obtain ⟨-, hla, hlc⟩ := h
    simp only [Write.regs, List.mem_cons, List.not_mem_nil, or_false] at hr
    rcases hr with rfl | rfl | rfl
    · exact .inl rfl
    · exact .inr (List.mem_map_of_mem (f := home) hla)
    · exact .inr (List.mem_map_of_mem (f := home) hlc)
  | flags u => exact .inl (List.mem_singleton.1 hr)

/-- A half inside a footprint writes no other register but `SR`. -/
theorem Half.Within.not_mem_regs {fp : Footprint} {h : Half} (hw : h.Within fp) {r : Reg} (hsr : r ≠ .sr)
    (hr : r ∉ fp.regs.map home) (ans : List Word) : r ∉ (h.writes ans).flatMap Write.regs := by
  intro hm
  obtain ⟨w, hmem, hin⟩ := List.mem_flatMap.1 hm
  exact ((hw ans w hmem).mem_regs hin).elim hsr hr

/-- Settles O15: the updates and the writes of both halves reach the destinations, the move's registers and `SR`
alone. -/
theorem onlyDestinationsChange : Obligations.OnlyDestinationsChange := by
  intro i s
  refine ⟨_, exec_eq_evaluateOpcode i s, fun r hsr hd hm => ?_⟩
  have hsr : home r ≠ .sr := mt (home_eq_sr_iff r).1 hsr
  have hd : home r ∉ (destinationList i).map home := by simpa [destinations] using hd
  have hm' : home r ∉ (moveRegsOf i).map home := by
    rwa [List.map_congr_left (home_of_mem_moveRegsOf i), List.map_id']
  have hupdates : home r ∉ ((moveHalfOf i s).updates ++ (instrHalfOf i s).updates).map fun u => addrName u.reg := by
    intro hin
    obtain ⟨u, hu, hur⟩ := List.mem_map.1 hin
    rcases List.mem_append.1 hu with hu | hu
    · exact hm (hur ▸ addrName_mem_moveRegsOf hu)
    · exact hd (List.mem_map.2 ⟨_, addrName_mem_destinationList hu, (home_addrName _).trans hur⟩)
  refine evaluateWith_regsKept _ _ _ _ _ s r ?_
  simp only [List.mem_append, not_or]
  exact ⟨⟨by simpa using hupdates, (instrHalfOf_within i s).not_mem_regs hsr hd _⟩,
    (moveHalfOf_within i s).not_mem_regs hsr hm' _⟩

/-! ## An evaluation as one list of writes -/

/-- An address-register update is a write through the register port (rule R38). -/
def Update.write (u : Update) : Write := .reg (addrName u.reg) u.value

theorem setAddr_eq_setReg16 (s : State) (n : AddrReg) (v : Word) : s.setAddr n v = s.setReg16 (addrName n) v := by
  cases n <;> rfl

theorem applyUpdates_eq_applyWrites (us : List Update) (s : State) :
    applyUpdates us s = applyWrites (us.map Update.write) s := by
  induction us generalizing s with
  | nil => rfl
  | cons u us ih =>
    rw [applyUpdates_cons, setAddr_eq_setReg16, ih]
    rfl

/-- Everything an evaluation commits but the program counter, in the order of R264, for any answers of the host. -/
def commitWrites (mv ins : Half) (ma ia : List Word) : List Write :=
  (mv.updates ++ ins.updates).map Update.write ++ ins.writes ia ++ mv.writes ma

theorem evaluateWith_eq_applyWrites (size : Nat) (mv ins : Half) (ma ia : List Word) (s : State) :
    evaluateWith size mv ins ma ia s =
      (applyWrites (commitWrites mv ins ma ia) s).setPc (ins.target.getD (s.pc + BitVec.ofNat 16 size)) := by
  simp only [evaluateWith, commitWrites, applyUpdates_eq_applyWrites, applyWrites, List.foldl_append]

/-- What two states share, and every write keeps, is shared after a list of writes. -/
theorem applyWrites_shares {R : State → State → Prop}
    (hR : ∀ w t t', R t t' → R (Write.apply w t) (Write.apply w t')) (ws : List Write) {s s' : State}
    (h : R s s') : R (applyWrites ws s) (applyWrites ws s') := by
  induction ws generalizing s s' with
  | nil => exact h
  | cons w ws ih => exact ih (hR w s s' h)

/-! ## Two states with the same core (O10, O22) -/

/-- The two states differ in the contents of the two spaces at most. -/
def SameCore (t t' : State) : Prop := ∃ x p, t' = { t with xmem := x, pmem := p }

theorem SameCore.eq_with {t t' : State} (h : SameCore t t') : t' = { t with xmem := t'.xmem, pmem := t'.pmem } := by
  obtain ⟨x, p, rfl⟩ := h
  rfl

theorem SameCore.pushLoop {t t' : State} (h : SameCore t t') (la lc : Word) :
    SameCore (t.pushLoop la lc) (t'.pushLoop la lc) := by
  obtain ⟨x, p, rfl⟩ := h
  refine ⟨x, p, ?_⟩
  unfold State.pushLoop
  split <;> rfl

theorem SameCore.popLoop {t t' : State} (h : SameCore t t') : SameCore t.popLoop t'.popLoop := by
  obtain ⟨x, p, rfl⟩ := h
  refine ⟨x, p, ?_⟩
  unfold State.popLoop
  split <;> rfl

/-- No write reads memory. -/
theorem SameCore.apply (w : Write) (t t' : State) (h : SameCore t t') : SameCore (w.apply t) (w.apply t') := by
  cases w with
  | push la lc => exact h.pushLoop la lc
  | pop => exact h.popLoop
  | reg c v =>
    obtain ⟨x, p, rfl⟩ := h
    exact ⟨x, p, by cases c <;> rfl⟩
  | acc d v =>
    obtain ⟨x, p, rfl⟩ := h
    exact ⟨x, p, by cases d <;> rfl⟩
  | mem addr v =>
    obtain ⟨x, p, rfl⟩ := h
    exact ⟨x.writeWord addr v, p, rfl⟩
  | flags u =>
    obtain ⟨x, p, rfl⟩ := h
    exact ⟨x, p, rfl⟩

theorem xmem_apply_congr (w : Write) (t t' : State) (h : t'.xmem = t.xmem) :
    (w.apply t').xmem = (w.apply t).xmem := by
  rw [Write.apply_xmem, Write.apply_xmem, h]

/-! The halves are computed from the core alone. -/

theorem SameCore.moveHalfOf_eq {t t' : State} (h : SameCore t t') (i : Instr) : moveHalfOf i t' = moveHalfOf i t := by
  obtain ⟨x, p, rfl⟩ := h
  cases i <;> rfl

theorem SameCore.instrHalfOf_eq {t t' : State} (h : SameCore t t') (i : Instr) :
    instrHalfOf i t' = instrHalfOf i t := by
  obtain ⟨x, p, rfl⟩ := h
  cases i <;> rfl

/-- The same answers take two states with the same core to two states with the same core. -/
theorem SameCore.evaluateOpcode {s s' : State} (h : SameCore s s') (i : Instr) (ma ia : List Word) :
    SameCore (evaluateOpcode i ma ia s) (evaluateOpcode i ma ia s') := by
  have hpc : s'.pc = s.pc := by
    obtain ⟨x, p, rfl⟩ := h
    rfl
  simp only [Machine.evaluateOpcode, evaluateWith_eq_applyWrites, h.moveHalfOf_eq, h.instrHalfOf_eq, hpc]
  obtain ⟨x, p, e⟩ := applyWrites_shares SameCore.apply _ h
  exact ⟨x, p, by rw [e]; rfl⟩

theorem SameCore.evaluateOpcode_xmem {s s' : State} (h : SameCore s s') (hx : s'.xmem = s.xmem) (i : Instr)
    (ma ia : List Word) : (Machine.evaluateOpcode i ma ia s').xmem = (Machine.evaluateOpcode i ma ia s).xmem := by
  simp only [Machine.evaluateOpcode, evaluateWith_eq_applyWrites, h.moveHalfOf_eq, h.instrHalfOf_eq, setPc_xmem]
  exact applyWrites_shares (R := fun t t' => t'.xmem = t.xmem) xmem_apply_congr _ hx

/-- Where the two spaces answer an opcode's reads alike, the next states have the same core, each with its own P
space. -/
theorem SameCore.exec {s s' : State} (h : SameCore s s') {i : Instr}
    (hma : (moveHalfOf i s).reads.map s'.memRead = (moveHalfOf i s).reads.map s.memRead)
    (hia : (instrHalfOf i s).reads.map s'.memRead = (instrHalfOf i s).reads.map s.memRead) :
    ∃ t t', Machine.exec i s = .next t ∧ Machine.exec i s' = .next t' ∧ SameCore t t' ∧
      t.pmem = s.pmem ∧ t'.pmem = s'.pmem ∧ (s'.xmem = s.xmem → t'.xmem = t.xmem) := by
  refine ⟨_, _, exec_eq_evaluateOpcode i s, exec_eq_evaluateOpcode i s', ?_, evaluateWith_pmem _ _ _ _ _ s,
    evaluateWith_pmem _ _ _ _ _ s', fun hx => ?_⟩
  all_goals rw [h.moveHalfOf_eq, h.instrHalfOf_eq, hma, hia]
  · exact h.evaluateOpcode i _ _
  · exact h.evaluateOpcode_xmem hx i _ _

/-- Settles O22: the reads are among the accesses, so the answers are the same, and no write of an opcode reads X
space. -/
theorem onlyTheAnswersMatter : Obligations.OnlyTheAnswersMatter := by
  intro i s x hx
  have hcore : SameCore s { s with xmem := x } := ⟨x, s.pmem, rfl⟩
  have hma : (moveHalfOf i s).reads.map ({ s with xmem := x } : State).memRead =
      (moveHalfOf i s).reads.map s.memRead :=
    List.map_congr_left fun a ha => hx a (by simp [busCalls, busCallsWith, ha])
  have hia : (instrHalfOf i s).reads.map ({ s with xmem := x } : State).memRead =
      (instrHalfOf i s).reads.map s.memRead :=
    List.map_congr_left fun a ha => hx a (by simp [busCalls, busCallsWith, ha])
  obtain ⟨t, t', ht, ht', hsame, hp, hp', -⟩ := hcore.exec hma hia
  refine ⟨?_, t, t', ht, ht', ?_⟩
  · simp only [busCalls, busCallsWith, hcore.moveHalfOf_eq, hcore.instrHalfOf_eq, hma, hia]
  · rw [hsame.eq_with, hp', ← hp]

/-- No opcode reads or writes P space. -/
theorem exec_withPmem (i : Instr) (s : State) (p : Memory) :
    ∃ t, exec i s = .next t ∧ exec i { s with pmem := p } = .next { t with pmem := p } := by
  have hcore : SameCore s { s with pmem := p } := ⟨s.xmem, p, rfl⟩
  obtain ⟨t, t', ht, ht', hsame, -, hp, hx⟩ := hcore.exec (i := i) rfl rfl
  refine ⟨t, ht, ht'.trans (congrArg _ ?_)⟩
  rw [hsame.eq_with, hp, hx rfl]

/-- Settles O10: the word at `pc` decodes alone in both P spaces, and its opcode reads none of them. -/
theorem oneWordOpcodeReadsOneWord : Obligations.OneWordOpcodeReadsOneWord := by
  intro s p i hi hp
  have hstep : step s = exec i s := step_of_decodeAtPc_ok (decodeAtPc_of_decode_none hi)
  have hi' : decode (State.fetch { s with pmem := p } s.pc) none = .ok i :=
    (congrArg (decode · none) hp).trans hi
  have hstep' : step { s with pmem := p } = exec i { s with pmem := p } :=
    step_of_decodeAtPc_ok (decodeAtPc_of_decode_none hi')
  obtain ⟨t, ht, ht'⟩ := exec_withPmem i s p
  exact ⟨t, hstep.trans ht, hstep'.trans ht'⟩

end Sys2Proof.Machine
end

section
/-! PROOFS. What an instruction reads: its half is computed from its sources and `pc`, and its writes leave alike
what they write, and what was alike before (O16). -/

namespace Sys2Proof.Machine

/-! ## A register from its view -/

/-- A register code reads alike where its whole view does (rule R37). -/
theorem reg16_of_view {s s' : State} {r : Reg} (h : s'.view r = s.view r) : s'.reg16 r = s.reg16 r := by
  have hwide : ∀ {x y : Word}, x.setWidth 40 = y.setWidth 40 → x = y := fun e => by
    simpa using congrArg (BitVec.setWidth 16) e
  cases r with
  | a | b => exact congrArg limit h
  | _ => exact hwide h

theorem acc_of_view {s s' : State} {d : Acc} (h : s'.view (accName d) = s.view (accName d)) :
    s'.acc d = s.acc d := by
  cases d <;> exact h

theorem data_of_view {s s' : State} {r : DataReg} (h : s'.view (dataName r) = s.view (dataName r)) :
    s'.data r = s.data r := by
  cases r <;> exact reg16_of_view h

theorem addr_of_view {s s' : State} {r : AddrReg} (h : s'.view (addrName r) = s.view (addrName r)) :
    s'.addr r = s.addr r := by
  cases r <;> exact reg16_of_view h

theorem offset_of_view {s s' : State} {r : AddrReg} (h : s'.view (offsetName r) = s.view (offsetName r)) :
    s'.offset r = s.offset r := by
  cases r <;> exact reg16_of_view h

/-- The word of `SR` holds every flag (rule R30). -/
theorem Status.ofWord_toWord (f : Status) : Status.ofWord f.toWord = f := by
  obtain ⟨c, v, z, n, se⟩ := f
  revert c v z n se
  decide

theorem sr_of_view {s s' : State} (h : s'.view .sr = s.view .sr) : s'.sr = s.sr := by
  have hword : s'.sr.toWord = s.sr.toWord := reg16_of_view h
  rw [← Status.ofWord_toWord s'.sr, hword, Status.ofWord_toWord]

/-! ## The half from the sources -/

theorem holds_congr {cond : Cond} {s s' : State} (h : ∀ r ∈ condSources cond, s'.view r = s.view r) :
    holds cond s'.sr = holds cond s.sr := by
  by_cases hc : cond = .al
  · subst hc
    rfl
  · rw [sr_of_view (h .sr (by simp [condSources, hc]))]

/-- The resolver reads the registers a mode lists as sources (rules R121, R221, R222). -/
theorem resolve_congr {mode : Mode} {rn : AddrReg} {s s' : State}
    (h : ∀ r ∈ modeSources mode rn, s'.view r = s.view r) :
    resolve (addrModeOf mode rn) s' = resolve (addrModeOf mode rn) s := by
  have haddr : s'.addr rn = s.addr rn := addr_of_view (h _ (by cases mode <;> exact List.mem_cons_self))
  cases mode with
  | postAdd | indexed =>
    have hoffset : s'.offset rn = s.offset rn := offset_of_view (h _ (by simp [modeSources]))
    simp only [addrModeOf, resolve, haddr, hoffset]
  | _ => simp only [addrModeOf, resolve, haddr]

theorem resolve_displaced_congr {rn : AddrReg} {s s' : State} (h : s'.addr rn = s.addr rn) (disp : Word) :
    resolve (.displaced rn disp) s' = resolve (.displaced rn disp) s := by
  simp only [resolve, h]

theorem loadHalf_congr {mode : AddrMode} {s s' : State} (h : resolve mode s' = resolve mode s) (dst : Reg) :
    loadHalf dst mode s' = loadHalf dst mode s := by
  simp only [loadHalf, h]

theorem storeHalf_congr {mode : AddrMode} {src : Reg} {s s' : State} (hsrc : s'.reg16 src = s.reg16 src)
    (h : resolve mode s' = resolve mode s) : storeHalf src mode s' = storeHalf src mode s := by
  simp only [storeHalf, h, hsrc]

theorem pairProduct_congr {q : Pair} {s s' : State} (h1 : s'.data (pairFst q) = s.data (pairFst q))
    (h2 : s'.data (pairSnd q) = s.data (pairSnd q)) (k : Sign) : pairProduct k q s' = pairProduct k q s := by
  simp only [pairProduct, h1, h2]

/-- The instruction half of an opcode is computed from its sources and `pc` alone (rules R264, R266). -/
theorem instrHalfOf_congr {i : Instr} {s s' : State} (h : ∀ r ∈ sourceList i, s'.view r = s.view r)
    (hpc : s'.pc = s.pc) : instrHalfOf i s' = instrHalfOf i s := by
  cases i with
  | empty | regmove | immload | absread | abswrite | memread | memwrite | clr | nop | enddo | moveLoadAbs
  | moveImm => rfl
  | tst m d | abs m d | neg m d | not m d | rnd m d | asl m d | asr m d | lsl m d | lsr m d | inc m d | dec m d
  | addi imm d | subi imm d | cmpi imm d | andi imm d | ori imm d | eori imm d =>
    have hacc : s'.acc d = s.acc d := acc_of_view (h _ List.mem_cons_self)
    simp only [instrHalfOf, tstHalf, absHalf, negHalf, notHalf, rndHalf, aslHalf, asrHalf, lslHalf, lsrHalf,
      incHalf, decHalf, addHalf, subHalf, cmpHalf, andHalf, orHalf, eorHalf, hacc]
  | rol m d | ror m d =>
    have hacc : s'.acc d = s.acc d := acc_of_view (h _ List.mem_cons_self)
    have hsr : s'.sr = s.sr := sr_of_view (h _ (by simp [sourceList]))
    simp only [instrHalfOf, rolHalf, rorHalf, hacc, hsr]
  | tfrAcc m d =>
    have hother : s'.acc (otherAcc d) = s.acc (otherAcc d) := acc_of_view (h _ List.mem_cons_self)
    simp only [instrHalfOf, tfrAccHalf, hother]
  | addAcc m d | subAcc m d | cmpAcc m d =>
    have hother : s'.acc (otherAcc d) = s.acc (otherAcc d) := acc_of_view (h _ List.mem_cons_self)
    have hacc : s'.acc d = s.acc d := acc_of_view (h _ (by simp [sourceList]))
    simp only [instrHalfOf, addHalf, subHalf, cmpHalf, hother, hacc]
  | add m src d | sub m src d | cmp m src d | and m src d | or m src d | eor m src d =>
    have hdata : s'.data src = s.data src := data_of_view (h _ List.mem_cons_self)
    have hacc : s'.acc d = s.acc d := acc_of_view (h _ (by simp [sourceList]))
    simp only [instrHalfOf, addHalf, subHalf, cmpHalf, andHalf, orHalf, eorHalf, hdata, hacc]
  | tfrData m src d =>
    have hdata : s'.data src = s.data src := data_of_view (h _ List.mem_cons_self)
    simp only [instrHalfOf, tfrDataHalf, hdata]
  | tfrAddr m rn d =>
    have haddr : s'.addr rn = s.addr rn := addr_of_view (h _ List.mem_cons_self)
    simp only [instrHalfOf, tfrAddrHalf, haddr]
  | mpy m k q d | mpyr m k q d =>
    have hproduct : pairProduct k q s' = pairProduct k q s :=
      pairProduct_congr (data_of_view (h _ List.mem_cons_self)) (data_of_view (h _ (by simp [sourceList]))) k
    simp only [instrHalfOf, mpyHalf, mpyrHalf, hproduct]
  | mac m k q d | macr m k q d =>
    have hproduct : pairProduct k q s' = pairProduct k q s :=
      pairProduct_congr (data_of_view (h _ List.mem_cons_self)) (data_of_view (h _ (by simp [sourceList]))) k
    have hacc : s'.acc d = s.acc d := acc_of_view (h _ (by simp [sourceList]))
    simp only [instrHalfOf, macHalf, macrHalf, hproduct, hacc]
  | dualread _ _ _ _ _ k q d | dualreg _ _ _ _ k q d | mpyrD _ k q d =>
    have hproduct : pairProduct k (dualPairOfPair q) s' = pairProduct k (dualPairOfPair q) s :=
      pairProduct_congr (data_of_view (h _ List.mem_cons_self)) (data_of_view (h _ (by simp [sourceList]))) k
    simp only [instrHalfOf, mpyHalf, mpyrHalf, hproduct]
  | macD _ k q d | macrD _ k q d =>
    have hproduct : pairProduct k (dualPairOfPair q) s' = pairProduct k (dualPairOfPair q) s :=
      pairProduct_congr (data_of_view (h _ List.mem_cons_self)) (data_of_view (h _ (by simp [sourceList]))) k
    have hacc : s'.acc d = s.acc d := acc_of_view (h _ (by simp [sourceList]))
    simp only [instrHalfOf, macHalf, macrHalf, hproduct, hacc]
  | next =>
    have hlc : s'.lc = s.lc := reg16_of_view (h .lc List.mem_cons_self)
    have hla : s'.la = s.la := reg16_of_view (h .la (by simp [sourceList]))
    simp only [instrHalfOf, nextHalf, hlc, hla]
  | doImm count =>
    have hlc : s'.lc = s.lc := reg16_of_view (h .lc List.mem_cons_self)
    have hla : s'.la = s.la := reg16_of_view (h .la (by simp [sourceList]))
    simp only [instrHalfOf, doHalf, hlc, hla, hpc]
  | doReg src =>
    have hlc : s'.lc = s.lc := reg16_of_view (h .lc List.mem_cons_self)
    have hla : s'.la = s.la := reg16_of_view (h .la (by simp [sourceList]))
    have hsrc : s'.reg16 src = s.reg16 src := reg16_of_view (h _ (by simp [sourceList]))
    simp only [instrHalfOf, doHalf, hlc, hla, hpc, hsrc]
  | moveReg src dst =>
    have hsrc : s'.reg16 src = s.reg16 src := reg16_of_view (h _ List.mem_cons_self)
    simp only [instrHalfOf, moveRegHalf, hsrc]
  | moveLoad dst mode rn => exact loadHalf_congr (resolve_congr h) dst
  | moveLoadDisp dst rn disp =>
    exact loadHalf_congr (resolve_displaced_congr (addr_of_view (h _ List.mem_cons_self)) disp) dst
  | moveStore src mode rn =>
    exact storeHalf_congr (reg16_of_view (h _ List.mem_cons_self))
      (resolve_congr fun r hr => h r (List.mem_cons_of_mem _ hr))
  | moveStoreDisp src rn disp =>
    exact storeHalf_congr (reg16_of_view (h _ List.mem_cons_self))
      (resolve_displaced_congr (addr_of_view (h _ (by simp [sourceList]))) disp)
  | moveStoreAbs src addr => exact storeHalf_congr (reg16_of_view (h _ List.mem_cons_self)) rfl
  | andc imm | orc imm =>
    have hsr : s'.sr = s.sr := sr_of_view (h _ List.mem_cons_self)
    simp only [instrHalfOf, andcHalf, orcHalf, hsr]
  | bccShort cond disp | bccLong cond disp | jccAbs cond target =>
    have hcond : holds cond s'.sr = holds cond s.sr := holds_congr h
    simp only [instrHalfOf, hcond, hpc]
  | jccReg cond rn =>
    have haddr : s'.addr rn = s.addr rn := addr_of_view (h _ List.mem_cons_self)
    have hsr : s'.sr = s.sr := sr_of_view (h _ (by simp [sourceList]))
    simp only [instrHalfOf, haddr, hsr]
  | btstReg bit r | bsetReg bit r | bclrReg bit r | bchgReg bit r =>
    have hr : s'.reg16 r = s.reg16 r := reg16_of_view (h _ List.mem_cons_self)
    simp only [instrHalfOf, btstRegHalf, bitRegHalf, hr]
  | btstMem bit rn | bsetMem bit rn | bclrMem bit rn | bchgMem bit rn =>
    have haddr : s'.addr rn = s.addr rn := addr_of_view (h _ List.mem_cons_self)
    simp only [instrHalfOf, btstMemHalf, bitMemHalf, haddr]

/-! ## What a write leaves alike in two states -/

/-- The parts of an accumulator after a write of one part (rule R23). -/
theorem parts_withLow (acc : Wide) (v : Word) :
    lowPart (withLow acc v) = v ∧ highPart (withLow acc v) = highPart acc ∧
      extPart (withLow acc v) = extPart acc := by
  obtain ⟨he, hh, hl⟩ := Coding.fields₃ (extPart acc) (highPart acc) v
  exact ⟨hl, hh, he⟩

@[inherit_doc parts_withLow] theorem parts_withHigh (acc : Wide) (v : Word) :
    lowPart (withHigh acc v) = lowPart acc ∧ highPart (withHigh acc v) = v ∧
      extPart (withHigh acc v) = extPart acc := by
  obtain ⟨he, hh, hl⟩ := Coding.fields₃ (extPart acc) v (lowPart acc)
  exact ⟨hl, hh, he⟩

@[inherit_doc parts_withLow] theorem parts_withExt (acc : Wide) (v : Byte) :
    lowPart (withExt acc v) = lowPart acc ∧ highPart (withExt acc v) = highPart acc ∧
      extPart (withExt acc v) = v := by
  obtain ⟨he, hh, hl⟩ := Coding.fields₃ v (highPart acc) (lowPart acc)
  exact ⟨hl, hh, he⟩

/-- A view is a part of the whole register. -/
theorem view_of_full {s t : State} {r : Reg} (h : t.full r = s.full r) : t.view r = s.view r := by
  cases r with
  | a0 | b0 => exact congrArg (fun x => (lowPart x).setWidth 40) h
  | a1 | b1 => exact congrArg (fun x => (highPart x).setWidth 40) h
  | a2 | b2 => exact congrArg (fun x => ((extPart x).signExtend 16).setWidth 40) h
  | _ => exact h

/-- A whole accumulator written leaves all its views alike. -/
theorem setAcc_view {d : Acc} {r : Reg} (hr : home r = accName d) (v : Wide) (s s' : State) :
    (s'.setAcc d v).view r = (s.setAcc d v).view r := by
  cases d with
  | a =>
    cases r with
    | a | a0 | a1 | a2 => rfl
    | _ => cases hr
  | b =>
    cases r with
    | b | b0 | b1 | b2 => rfl
    | _ => cases hr

/-- A write through the register port leaves the register it names alike, whatever was there (rules R37, R38). -/
theorem setReg16_view_self (r : Reg) (v : Word) (s s' : State) :
    (s'.setReg16 r v).view r = (s.setReg16 r v).view r := by
  cases r with
  | a0 | b0 | a1 | b1 | a2 | b2 =>
    simp [State.view, State.reg16, State.setReg16, State.setAcc, parts_withLow, parts_withHigh, parts_withExt]
  | _ => rfl

theorem home_cases (r : Reg) : home r = r ∨ ∃ d, home r = accName d := by
  cases r with
  | a | a0 | a1 | a2 => exact .inr ⟨.a, rfl⟩
  | b | b0 | b1 | b2 => exact .inr ⟨.b, rfl⟩
  | _ => exact .inl rfl

/-- A write through the register port keeps every view alike, those of the same accumulator among them. -/
theorem setReg16_view_congr {r : Reg} (c : Reg) (v : Word) {s s' : State} (h : s'.view r = s.view r) :
    (s'.setReg16 c v).view r = (s.setReg16 c v).view r := by
  by_cases hh : home r = home c
  case neg => rw [view_of_full (setReg16_full s' c r v hh), view_of_full (setReg16_full s c r v hh), h]
  cases c with
  | a => exact setAcc_view (d := .a) hh _ s s'
  | b => exact setAcc_view (d := .b) hh _ s s'
  | a0 | a1 | a2 =>
    cases r with
    | a | a0 | a1 | a2 =>
      simp_all [State.view, State.reg16, State.setReg16, State.setAcc, parts_withLow, parts_withHigh, parts_withExt]
    | _ => cases hh
  | b0 | b1 | b2 =>
    cases r with
    | b | b0 | b1 | b2 =>
      simp_all [State.view, State.reg16, State.setReg16, State.setAcc, parts_withLow, parts_withHigh, parts_withExt]
    | _ => cases hh
  | _ =>
    rcases home_cases r with hr | ⟨d, hr⟩
    · obtain rfl := hr.symm.trans hh
      exact setReg16_view_self _ v s s'
    · cases d <;> cases hr.symm.trans hh

/-- The loop stack and X space of the two states are alike. -/
structure Alike (t t' : State) : Prop where
  ls : t'.ls = t.ls
  lsp : t'.lsp = t.lsp
  xmem : t'.xmem = t.xmem

theorem Alike.pushLoop {t t' : State} (h : Alike t t') (la lc : Word) :
    Alike (t.pushLoop la lc) (t'.pushLoop la lc) := by
  obtain ⟨hls, hlsp, hx⟩ := h
  unfold State.pushLoop
  rw [hlsp, hls]
  split <;> exact ⟨rfl, rfl, hx⟩

theorem Alike.popLoop {t t' : State} (h : Alike t t') : Alike t.popLoop t'.popLoop := by
  obtain ⟨hls, hlsp, hx⟩ := h
  unfold State.popLoop
  rw [hlsp, hls]
  split
  · exact ⟨hls, hlsp, hx⟩
  · exact ⟨rfl, rfl, hx⟩

/-- No write of the loop stack or of X space reads a register. -/
theorem Alike.apply (w : Write) (t t' : State) (h : Alike t t') : Alike (w.apply t) (w.apply t') := by
  obtain ⟨hls, hlsp, hx⟩ := h
  cases w with
  | push la lc => exact Alike.pushLoop ⟨hls, hlsp, hx⟩ la lc
  | pop => exact Alike.popLoop ⟨hls, hlsp, hx⟩
  | reg | acc => exact ⟨by simpa [Write.apply], by simpa [Write.apply], by simpa [Write.apply]⟩
  | mem addr v => exact ⟨hls, hlsp, xmem_apply_congr (.mem addr v) t t' hx⟩
  | flags u => exact ⟨hls, hlsp, hx⟩

/-- A pop leaves the loop registers alike where they were, or where the stack is not empty. -/
theorem Alike.popLoop_view {t t' : State} (h : Alike t t') {r : Reg} (hr : r = .la ∨ r = .lc)
    (hv : t.lsp = 0 → t'.view r = t.view r) : t'.popLoop.view r = t.popLoop.view r := by
  obtain ⟨hls, hlsp, -⟩ := h
  rcases popLoop_cases t with ⟨h0, e⟩ | ⟨hpos, e⟩
  · rcases popLoop_cases t' with ⟨_, e'⟩ | ⟨hpos', _⟩
    · rw [e, e']
      rcases hr with rfl | rfl
      · exact hv h0
      · exact hv h0
    · omega
  · rcases popLoop_cases t' with ⟨h0', _⟩ | ⟨_, e'⟩
    · omega
    · rw [e, e', hls, hlsp]
      rcases hr with rfl | rfl <;> rfl

theorem home_eq_la_or_lc {r : Reg} (h : home r = .la ∨ home r = .lc) : r = .la ∨ r = .lc := by
  rcases home_cases r with hr | ⟨d, hr⟩
  · rwa [hr] at h
  · rw [hr] at h
    cases d <;> simp [accName] at h

/-- A write keeps a view alike, but for `SR`. -/
theorem Alike.apply_view {r : Reg} (hsr : r ≠ .sr) (w : Write) (t t' : State) (h : Alike t t')
    (hv : t'.view r = t.view r) : (w.apply t').view r = (w.apply t).view r := by
  by_cases hw : home r ∈ w.regs
  case neg => rw [view_of_full (w.apply_regsKept t' r hw), view_of_full (w.apply_regsKept t r hw), hv]
  have hsr : home r ≠ .sr := mt (home_eq_sr_iff r).1 hsr
  cases w with
  | reg c v => exact setReg16_view_congr c v hv
  | acc d v => exact setAcc_view (List.mem_singleton.1 hw) v t t'
  | mem addr v => cases hw
  | push la lc => exact absurd (List.mem_singleton.1 hw) hsr
  | pop =>
    have hloop : home r = .la ∨ home r = .lc := by simpa [Write.regs, hsr] using hw
    exact h.popLoop_view (home_eq_la_or_lc hloop) fun _ => hv
  | flags u => exact absurd (List.mem_singleton.1 hw) hsr

/-- What a flag update sets one flag to. -/
def FlagUpdate.get (u : FlagUpdate) : Flag → Option Bool
  | .c => u.c
  | .v => u.v
  | .z => u.z
  | .n => u.n
  | .se => none

theorem FlagUpdate.apply_get (u : FlagUpdate) (g : Status) (f : Flag) :
    (u.apply g).get f = (u.get f).getD (g.get f) := by
  cases f <;> rfl

/-- A flag after `SE` has been set. -/
theorem Status.get_set_se (g : Status) (f : Flag) :
    Status.get { g with se := true } f = if f = .se then true else g.get f := by
  cases f <;> rfl

theorem pushLoop_sr_eq (t : State) (la lc : Word) :
    (t.pushLoop la lc).sr = if t.lsp < 8 then t.sr else { t.sr with se := true } := by
  unfold State.pushLoop
  split <;> simp_all [Config.loopDepth]

theorem popLoop_sr_eq (t : State) : t.popLoop.sr = if t.lsp = 0 then { t.sr with se := true } else t.sr := by
  unfold State.popLoop
  split <;> simp_all

/-- A write keeps a flag alike. -/
theorem Alike.apply_flag (f : Flag) (w : Write) (t t' : State) (h : Alike t t')
    (hf : t'.sr.get f = t.sr.get f) : (w.apply t').sr.get f = (w.apply t).sr.get f := by
  cases w with
  | reg c v =>
    simp only [Write.apply, setReg16_sr]
    split
    · rfl
    · exact hf
  | acc d v => simpa [Write.apply] using hf
  | mem addr v => exact hf
  | push la lc =>
    simp only [Write.apply, pushLoop_sr_eq, h.lsp]
    split
    · exact hf
    · rw [Status.get_set_se, Status.get_set_se, hf]
  | pop =>
    simp only [Write.apply, popLoop_sr_eq, h.lsp]
    split
    · rw [Status.get_set_se, Status.get_set_se, hf]
    · exact hf
  | flags u =>
    simp only [Write.apply, setSr_sr, FlagUpdate.apply_get, hf]

/-! ## What a write sets, whatever was there -/

/-- The write gives the register `r` a value of its own. -/
def Write.Sets (r : Reg) : Write → Prop
  | .reg c _ => c = r
  | .acc d _ => accName d = r
  | _ => False

/-- The write gives the flag `f` a value of its own. -/
def Write.SetsFlag (f : Flag) : Write → Prop
  | .reg c _ => c = .sr
  | .flags u => (u.get f).isSome
  | _ => False

theorem Write.Sets.view_eq {r : Reg} {w : Write} (h : w.Sets r) (t t' : State) :
    (w.apply t').view r = (w.apply t).view r := by
  cases w with
  | reg c v =>
    obtain rfl : c = r := h
    exact setReg16_view_self c v t t'
  | acc d v =>
    obtain rfl : accName d = r := h
    exact setAcc_view (home_accName d) v t t'
  | mem | push | pop | flags => cases h

theorem Write.SetsFlag.get_eq {f : Flag} {w : Write} (h : w.SetsFlag f) (t t' : State) :
    (w.apply t').sr.get f = (w.apply t).sr.get f := by
  cases w with
  | reg c v =>
    obtain rfl : c = .sr := h
    rfl
  | flags u =>
    obtain ⟨b, hb⟩ := Option.isSome_iff_exists.1 h
    simp only [Write.apply, setSr_sr, FlagUpdate.apply_get, hb, Option.getD_some]
  | acc | mem | push | pop => cases h

theorem applyWrites_alike (ws : List Write) {s s' : State} (h : Alike s s') :
    Alike (applyWrites ws s) (applyWrites ws s') :=
  applyWrites_shares Alike.apply ws h

/-- What every write keeps alike is alike after a list of writes, where it was before or where one of them sets it. -/
theorem applyWrites_settles {A : State → State → Prop} {S : Write → Prop}
    (hkeep : ∀ w t t', Alike t t' → A t t' → A (Write.apply w t) (w.apply t'))
    (hset : ∀ w, S w → ∀ t t', A (Write.apply w t) (w.apply t')) {ws : List Write} {s s' : State}
    (h : Alike s s') (hA : A s s' ∨ ∃ w ∈ ws, S w) : A (applyWrites ws s) (applyWrites ws s') := by
  induction ws generalizing s s' with
  | nil => simpa using hA
  | cons w ws ih =>
    refine ih (h.apply w) ?_
    rcases hA with hA | ⟨w', hw', hS⟩
    · exact .inl (hkeep w s s' h hA)
    · rcases List.mem_cons.1 hw' with rfl | hw'
      · exact .inl (hset w' hS s s')
      · exact .inr ⟨w', hw', hS⟩

/-! ## What an instruction half sets -/

/-- Some write of the half sets the register, whatever the answers of the host. -/
def Half.Sets (h : Half) (r : Reg) : Prop := ∀ ans, ∃ w ∈ h.writes ans, w.Sets r

/-- Some write of the half sets the flag, whatever the answers of the host. -/
def Half.SetsFlag (h : Half) (f : Flag) : Prop := ∀ ans, ∃ w ∈ h.writes ans, w.SetsFlag f

theorem accResult_sets (d : Acc) (v : Wide) (u : FlagUpdate) : (accResult d v u).Sets (accName d) :=
  fun _ => ⟨.acc d v, List.mem_cons_self, rfl⟩

/-- A half whose writes are one write through the register port. -/
theorem Half.sets_of_reg {h : Half} {c : Reg} {v : List Word → Word} (hw : ∀ ans, h.writes ans = [.reg c (v ans)]) :
    h.Sets c :=
  fun ans => ⟨.reg c (v ans), hw ans ▸ List.mem_cons_self, rfl⟩

/-- A half whose writes are one write of an accumulator. -/
theorem Half.sets_of_acc {h : Half} {d : Acc} {v : Wide} (hw : ∀ ans, h.writes ans = [.acc d v]) :
    h.Sets (accName d) :=
  fun ans => ⟨.acc d v, hw ans ▸ List.mem_cons_self, rfl⟩

theorem loadHalf_sets (dst : Reg) (mode : AddrMode) (s : State) : (loadHalf dst mode s).Sets dst := by
  obtain ⟨v, hv⟩ := loadHalf_writes dst mode s
  exact Half.sets_of_reg hv

theorem modeUpdates_subset_modeSources (mode : Mode) (rn : AddrReg) : modeUpdates mode rn ⊆ modeSources mode rn := by
  cases mode <;> simp [modeUpdates, modeSources]

/-- Every destination of an instruction is a source as well, or is set whatever was there; `ENDDO` alone takes its
destinations from the loop stack (rules R249, R266). -/
theorem destination_is_source_or_set {i : Instr} {r : Reg} (h : r ∈ destinationList i) (hi : i ≠ .enddo)
    (s : State) : r ∈ sourceList i ∨ (instrHalfOf i s).Sets r := by
  cases i with
  | empty | regmove | immload | absread | abswrite | memread | memwrite | tst | cmp | cmpAcc | nop | moveStoreDisp
  | moveStoreAbs | cmpi | bccShort | bccLong | jccAbs | jccReg | btstReg | btstMem | bsetMem | bclrMem
  | bchgMem => cases h
  | enddo => exact absurd rfl hi
  | abs | neg | not | rnd | asl | asr | lsl | lsr | rol | ror | inc | dec | add | addAcc | sub | subAcc | and | or
  | eor | mac | macr | macD | macrD | addi | subi | andi | ori | eori | andc | orc | next | doImm | doReg | bsetReg
  | bclrReg | bchgReg =>
    refine .inl ((?_ : destinationList _ ⊆ sourceList _) h)
    simp [destinationList, sourceList]
  | clr | mpy | mpyr | dualread | dualreg | mpyrD =>
    obtain rfl := List.mem_singleton.1 h
    exact .inr (accResult_sets _ _ _)
  | tfrAcc | tfrData | tfrAddr =>
    obtain rfl := List.mem_singleton.1 h
    exact .inr (Half.sets_of_acc fun _ => rfl)
  | moveReg =>
    obtain rfl := List.mem_singleton.1 h
    exact .inr (Half.sets_of_reg fun _ => rfl)
  | moveLoad dst mode rn =>
    rcases List.mem_cons.1 h with rfl | h
    · exact .inr (loadHalf_sets _ _ s)
    · exact .inl (modeUpdates_subset_modeSources mode rn h)
  | moveLoadDisp dst rn disp =>
    obtain rfl := List.mem_singleton.1 h
    exact .inr (loadHalf_sets r (.displaced rn disp) s)
  | moveLoadAbs dst addr =>
    obtain rfl := List.mem_singleton.1 h
    exact .inr (loadHalf_sets r (.absolute addr) s)
  | moveImm dst imm =>
    obtain rfl := List.mem_singleton.1 h
    exact .inr (loadHalf_sets r (.immediate imm) s)
  | moveStore src mode rn =>
    exact .inl (List.mem_cons_of_mem _ (modeUpdates_subset_modeSources mode rn h))

/-- A half with a flag update among its writes sets the flags of that update. -/
theorem Half.setsFlag_of_flags {h : Half} {u : List Word → FlagUpdate} (hw : ∀ ans, .flags (u ans) ∈ h.writes ans)
    {f : Flag} (hu : ∀ ans, ((u ans).get f).isSome) : h.SetsFlag f :=
  fun ans => ⟨.flags (u ans), hw ans, hu ans⟩

/-- A half that writes `SR` as a word sets every flag. -/
theorem Half.setsFlag_of_sr {h : Half} (hsr : h.Sets .sr) (f : Flag) : h.SetsFlag f := by
  intro ans
  obtain ⟨w, hw, hset⟩ := hsr ans
  refine ⟨w, hw, ?_⟩
  cases w with
  | reg c v => exact hset
  | acc d v => exact absurd hset.symm (sr_ne_accName d)
  | mem | push | pop | flags => cases hset

theorem isSome_get_vzn {u : FlagUpdate} {f : Flag} (hf : f ∈ [Flag.v, .z, .n]) (hv : u.v.isSome) (hz : u.z.isSome)
    (hn : u.n.isSome) : (u.get f).isSome := by
  simp only [List.mem_cons, List.not_mem_nil, or_false] at hf
  rcases hf with rfl | rfl | rfl
  · exact hv
  · exact hz
  · exact hn

theorem isSome_get_cvzn {u : FlagUpdate} {f : Flag} (hf : f ∈ [Flag.c, .v, .z, .n]) (hc : u.c.isSome)
    (hv : u.v.isSome) (hz : u.z.isSome) (hn : u.n.isSome) : (u.get f).isSome := by
  rcases List.mem_cons.1 hf with rfl | hf
  · exact hc
  · exact isSome_get_vzn hf hv hz hn

theorem accResult_setsFlag (d : Acc) (v : Wide) {u : FlagUpdate} {f : Flag} (h : (u.get f).isSome) :
    (accResult d v u).SetsFlag f :=
  Half.setsFlag_of_flags (fun _ => by simp [accResult]) fun _ => h

theorem highResult_setsFlag (d : Acc) (x : Word) {u : FlagUpdate} {f : Flag} (h : (u.get f).isSome) :
    (highResult d x u).SetsFlag f :=
  Half.setsFlag_of_flags (fun _ => by simp [highResult]) fun _ => h

theorem flagResult_setsFlag {u : FlagUpdate} {f : Flag} (h : (u.get f).isSome) : (flagResult u).SetsFlag f :=
  Half.setsFlag_of_flags (fun _ => by simp [flagResult]) fun _ => h

theorem bitRegHalf_setsFlag (g : Word → Word) (bit : BitVec 4) (r : Reg) (s : State) :
    (bitRegHalf g bit r s).SetsFlag .c :=
  Half.setsFlag_of_flags (u := fun _ => bitFlag bit (s.reg16 r)) (fun _ => by simp [bitRegHalf]) fun _ => rfl

theorem bitMemHalf_setsFlag (g : Word → Word) (bit : BitVec 4) (rn : AddrReg) (s : State) :
    (bitMemHalf g bit rn s).SetsFlag .c :=
  Half.setsFlag_of_flags (u := fun ans => bitFlag bit (answer ans 0)) (fun _ => by simp [bitMemHalf]) fun _ => rfl

theorem btstMemHalf_setsFlag (bit : BitVec 4) (rn : AddrReg) (s : State) : (btstMemHalf bit rn s).SetsFlag .c :=
  Half.setsFlag_of_flags (u := fun ans => bitFlag bit (answer ans 0)) (fun _ => by simp [btstMemHalf]) fun _ => rfl

/-- A move into `SR` modifies every flag, and any other move none. -/
theorem eq_sr_of_mem_ite {dst : Reg} {f : Flag} {l : List Flag} (h : f ∈ if dst = .sr then l else []) :
    dst = .sr := by
  by_contra hne
  simp [hne] at h

/-- Every flag an instruction modifies is set whatever was there, but for `SE`, which a loop opcode sets or keeps
(rules R30, R31, R266). -/
theorem flag_is_set {i : Instr} {f : Flag} (h : f ∈ flagsModified i) (s : State) :
    (usesLoopStack i = true ∧ f = .se) ∨ (instrHalfOf i s).SetsFlag f := by
  cases i with
  | empty | regmove | immload | absread | abswrite | memread | memwrite | tfrAcc | tfrData | tfrAddr | nop
  | moveStore | moveStoreDisp | moveStoreAbs | bccShort | bccLong | jccAbs | jccReg => cases h
  | enddo | next | doImm | doReg => exact .inl ⟨rfl, List.mem_singleton.1 h⟩
  | clr | abs | rnd | mpy | mpyr | mac | macr | dualread | dualreg | mpyrD | macD | macrD =>
    exact .inr (accResult_setsFlag _ _ (isSome_get_vzn h rfl rfl rfl))
  | neg | asl | asr | inc | dec | add | addAcc | sub | subAcc | addi | subi =>
    exact .inr (accResult_setsFlag _ _ (isSome_get_cvzn h rfl rfl rfl rfl))
  | not | and | or | eor | andi | ori | eori => exact .inr (highResult_setsFlag _ _ (isSome_get_vzn h rfl rfl rfl))
  | lsl | lsr | rol | ror => exact .inr (highResult_setsFlag _ _ (isSome_get_cvzn h rfl rfl rfl rfl))
  | tst => exact .inr (flagResult_setsFlag (isSome_get_vzn h rfl rfl rfl))
  | cmp | cmpAcc | cmpi => exact .inr (flagResult_setsFlag (isSome_get_cvzn h rfl rfl rfl rfl))
  | andc | orc => exact .inr (Half.setsFlag_of_sr (Half.sets_of_reg fun _ => rfl) f)
  | moveReg src dst =>
    obtain rfl := eq_sr_of_mem_ite h
    exact .inr (Half.setsFlag_of_sr (Half.sets_of_reg fun _ => rfl) f)
  | moveLoad dst mode rn =>
    obtain rfl := eq_sr_of_mem_ite h
    exact .inr (Half.setsFlag_of_sr (loadHalf_sets .sr (addrModeOf mode rn) s) f)
  | moveLoadDisp dst rn disp =>
    obtain rfl := eq_sr_of_mem_ite h
    exact .inr (Half.setsFlag_of_sr (loadHalf_sets .sr (.displaced rn disp) s) f)
  | moveLoadAbs dst addr =>
    obtain rfl := eq_sr_of_mem_ite h
    exact .inr (Half.setsFlag_of_sr (loadHalf_sets .sr (.absolute addr) s) f)
  | moveImm dst imm =>
    obtain rfl := eq_sr_of_mem_ite h
    exact .inr (Half.setsFlag_of_sr (loadHalf_sets .sr (.immediate imm) s) f)
  | btstReg =>
    obtain rfl := List.mem_singleton.1 h
    exact .inr (flagResult_setsFlag rfl)
  | btstMem bit rn =>
    obtain rfl := List.mem_singleton.1 h
    exact .inr (btstMemHalf_setsFlag bit rn s)
  | bsetReg | bclrReg | bchgReg =>
    obtain rfl := List.mem_singleton.1 h
    exact .inr (bitRegHalf_setsFlag _ _ _ s)
  | bsetMem | bclrMem | bchgMem =>
    obtain rfl := List.mem_singleton.1 h
    exact .inr (bitMemHalf_setsFlag _ _ _ s)

/-! ## The instruction alone -/

theorem moveHalfOf_of_hasNoMove {i : Instr} (h : hasNoMove i = true) (s : State) : moveHalfOf i s = emptyHalf := by
  rcases moveHalfOf_cases i s with ⟨m, hp, e⟩ | ⟨m, hp, hd, -⟩ | ⟨-, -, e⟩
  · obtain rfl : m = .empty := by simpa [hasNoMove, hp] using h
    exact e
  · simp [hasNoMove, hp, hd] at h
  · exact e

/-- What an instruction commits on plain memory but the program counter, in the order of R264. -/
def instrWrites (i : Instr) (s : State) : List Write :=
  (instrHalfOf i s).updates.map Update.write ++ (instrHalfOf i s).writes ((instrHalfOf i s).reads.map s.memRead)

theorem exec_of_hasNoMove {i : Instr} (h : hasNoMove i = true) (s : State) :
    exec i s = .next ((applyWrites (instrWrites i s) s).setPc
      ((instrHalfOf i s).target.getD (s.pc + BitVec.ofNat 16 i.size))) := by
  rw [exec_eq_evaluateOpcode, evaluateOpcode, evaluateWith_eq_applyWrites, moveHalfOf_of_hasNoMove h]
  simp [commitWrites, emptyHalf, instrWrites]

theorem Half.Sets.exists_instrWrites {i : Instr} {s : State} {r : Reg} (h : (instrHalfOf i s).Sets r) :
    ∃ w ∈ instrWrites i s, w.Sets r := by
  obtain ⟨w, hw, hset⟩ := h ((instrHalfOf i s).reads.map s.memRead)
  exact ⟨w, List.mem_append_right _ hw, hset⟩

theorem Half.SetsFlag.exists_instrWrites {i : Instr} {s : State} {f : Flag} (h : (instrHalfOf i s).SetsFlag f) :
    ∃ w ∈ instrWrites i s, w.SetsFlag f := by
  obtain ⟨w, hw, hset⟩ := h ((instrHalfOf i s).reads.map s.memRead)
  exact ⟨w, List.mem_append_right _ hw, hset⟩

theorem setPc_view (s : State) (p : Word) (r : Reg) : (s.setPc p).view r = s.view r :=
  view_of_full (setPc_full s r p)

/-- `ENDDO` leaves the loop registers alike where the stack is not empty, and as they were where it is (rule R35). -/
theorem Alike.enddo_view {s s' : State} (h : Alike s s') {r : Reg} (hr : r = .lc ∨ r = .la) :
    s'.popLoop.view r = s.popLoop.view r ∨
      (s.lsp = 0 ∧ s.popLoop.view r = s.view r ∧ s'.popLoop.view r = s'.view r) := by
  by_cases h0 : s.lsp = 0
  · have hkept : ∀ t : State, t.lsp = 0 → t.popLoop.view r = t.view r := fun t ht => by
      rw [State.popLoop, if_pos ht]
      rcases hr with rfl | rfl <;> rfl
    exact .inr ⟨h0, hkept s h0, hkept s' (h.lsp.trans h0)⟩
  · exact .inl (h.popLoop_view hr.symm fun e => absurd e h0)

/-- Every other instruction leaves its destinations alike. -/
theorem Alike.destination_view {s s' : State} (h : Alike s s') {i : Instr}
    (hsources : ∀ r ∈ sourceList i, s'.view r = s.view r) (hi : i ≠ .enddo) {r : Reg} (hsr : r ≠ .sr)
    (hr : r ∈ destinationList i) :
    (applyWrites (instrWrites i s) s').view r = (applyWrites (instrWrites i s) s).view r :=
  applyWrites_settles (A := fun t t' => t'.view r = t.view r) (Alike.apply_view hsr) (fun _ hw => hw.view_eq) h
    ((destination_is_source_or_set hr hi s).imp (hsources r) Half.Sets.exists_instrWrites)

/-- Every instruction leaves the flags it modifies alike, a loop opcode where `SE` was. -/
theorem Alike.flag_get {s s' : State} (h : Alike s s') {i : Instr}
    (hse : usesLoopStack i = true → s'.sr.se = s.sr.se) {f : Flag} (hf : f ∈ flagsModified i) :
    (applyWrites (instrWrites i s) s').sr.get f = (applyWrites (instrWrites i s) s).sr.get f := by
  have hbefore : s'.sr.get f = s.sr.get f ∨ ∃ w ∈ instrWrites i s, w.SetsFlag f := by
    rcases flag_is_set hf s with ⟨hloop, rfl⟩ | hset
    · exact .inl (hse hloop)
    · exact .inr hset.exists_instrWrites
  exact applyWrites_settles (A := fun t t' => t'.sr.get f = t.sr.get f) (Alike.apply_flag f)
    (fun _ hw => hw.get_eq) h hbefore

/-- Settles O16: the half of an instruction is computed from its sources and `pc`; the same writes leave alike what
they set, and keep alike what they do not. -/
theorem onlySourcesAreRead : Obligations.OnlySourcesAreRead := by
  intro i s s' hno hview hpc hls hlsp hx
  have halike : Alike s s' := ⟨hls, hlsp, hx⟩
  have hsources : ∀ r ∈ sourceList i, s'.view r = s.view r := fun r hr => hview r ((mem_regSet _ _).2 hr)
  have hhalf : instrHalfOf i s' = instrHalfOf i s := instrHalfOf_congr hsources hpc
  have hread : s'.memRead = s.memRead := funext fun addr => congrArg (Memory.readWord · addr) hx
  have hwrites : instrWrites i s' = instrWrites i s := by rw [instrWrites, hhalf, hread, instrWrites]
  obtain ⟨hls', hlsp', hx'⟩ := applyWrites_alike (instrWrites i s) halike
  refine ⟨_, _, exec_of_hasNoMove hno s, exec_of_hasNoMove hno s', ?calls, ?pc, ?_⟩
  case calls => simp only [busCalls, busCallsWith, moveHalfOf_of_hasNoMove hno, hhalf, hread]
  case pc => simp only [setPc_pc, hhalf, hpc]
  rw [hwrites]
  refine ⟨hls', hlsp', hx', fun r hr hsr => ?_, fun hse f hf => halike.flag_get hse hf⟩
  simp only [setPc_view]
  have hr : r ∈ destinationList i := (mem_regSet _ _).1 hr
  by_cases hi : i = .enddo
  · subst hi
    have hloop : r = .lc ∨ r = .la := by simpa [destinationList] using hr
    exact (halike.enddo_view hloop).imp_right fun h => ⟨rfl, h⟩
  · exact .inl (halike.destination_view hsources hi hsr hr)

end Sys2Proof.Machine
end

section
/-! PROOFS. The three kinds of first word: undecodable, in need of a second word, or an opcode of its own (O4). -/

namespace Sys2Proof.Coding

theorem size_eq_one_of_ne_two {i : Instr} (h : i.size ≠ 2) : i.size = 1 := by
  rw [size_eq_wordCount] at h ⊢
  split at h
  · exact absurd rfl h
  · next hnone => exact if_neg hnone

/-- Where a first word fails a check with one second word, it fails the same check with any (rule R303). -/
theorem decodeWords_error_of_error {word0 word1 : Word} {e : DecodeErrorName}
    (h : decodeWords word0 word1 = .error e) (word1' : Word) : decodeWords word0 word1' = .error e := by
  have hsame := decodeWords_map_size word0 word1' word1
  rw [h] at hsame
  cases h' : decodeWords word0 word1' with
  | error e' => rw [h'] at hsame; exact congrArg Except.error (Except.error.inj hsame)
  | ok i => rw [h'] at hsame; cases hsame

theorem ne_incompleteFetch_of_decodeWords {word0 word1 : Word} {e : DecodeErrorName}
    (h : decodeWords word0 word1 = .error e) : e ≠ .incompleteFetch := fun he =>
  decodeWords_ne_incompleteFetch word0 word1 (he ▸ h)

/-- A failed check is the error of the decode, with a second word and without one (rule R301). -/
theorem decode_eq_error_of_decodeWords {word0 word1 : Word} {e : DecodeErrorName}
    (h : decodeWords word0 word1 = .error e) (second : Option Word) :
    decode word0 second = .error ⟨e, word0⟩ := by
  have hchecked := (decodeChecked_eq_error_iff (ne_incompleteFetch_of_decodeWords h)).2
    (decodeWords_error_of_error h (second.getD 0))
  exact Machine.decode_eq_error_iff.2 ⟨hchecked, rfl⟩

/-- A one-word opcode read with a second word is the opcode of the first word alone (rule R304): its encoding is
that word and no other. -/
theorem decode_none_of_one_word {word0 word1 : Word} {i : Instr} (h : decode word0 (some word1) = .ok i)
    (hsize : i.size = 1) : decode word0 none = .ok i := by
  obtain ⟨hword0, hword1⟩ := encodeOfDecode word0 word1 i h
  rw [if_neg (by omega)] at hword1
  have hround := decodeOfEncode i (decodedOpcodesAreWellFormed _ _ _ h)
  rwa [hword0, hword1] at hround

/-- Settles O4: the kind of a first word is what the checks make of it with any one second word, here the zero:
an error, an opcode of two words, or an opcode of one word. -/
theorem firstWordDecides : Obligations.FirstWordDecides := by
  intro w0
  cases h0 : decodeWords w0 0 with
  | error e =>
    exact .inl ⟨e, ne_incompleteFetch_of_decodeWords h0, decode_eq_error_of_decodeWords h0 none,
      fun w1 => decode_eq_error_of_decodeWords h0 (some w1)⟩
  | ok i =>
    have hany : ∀ w1, ∃ i', decode w0 (some w1) = .ok i' ∧ i'.size = i.size := fun w1 =>
      (decodeWords_of_size h0 w1).imp fun _ ⟨hi', hsize⟩ => ⟨Machine.decode_eq_ok_iff.2 hi', hsize⟩
    by_cases htwo : i.size = 2
    · have hneed := (decode_eq_incompleteFetch_iff w0 0).2 ⟨i, h0, htwo⟩
      exact .inr (.inl ⟨hneed, fun w1 => (hany w1).imp fun _ ⟨hi', hsize⟩ => ⟨hi', hsize.trans htwo⟩⟩)
    · have hone := size_eq_one_of_ne_two htwo
      have hnone : decode w0 none = .ok i := decode_none_of_one_word (Machine.decode_eq_ok_iff.2 h0) hone
      refine .inr (.inr ⟨i, hone, hnone, fun w1 => ?_⟩)
      obtain ⟨i', hi', hsize⟩ := hany w1
      obtain rfl : i = i' :=
        Except.ok.inj (hnone.symm.trans (decode_none_of_one_word hi' (hsize.trans hone)))
      exact hi'

end Sys2Proof.Coding
end

section
/-! PROOFS. The reset state as a program sees it: the registers through the port and the conditions (O59). -/

namespace Sys2Proof.Machine

/-! ## The parts of a cleared accumulator and the cleared status word -/

/-- R26: zero lies inside the limits, so it is read as its high word. -/
@[simp] theorem limit_zero : limit 0 = 0 := by simp [limit]

@[simp] theorem lowPart_zero : lowPart 0 = 0 := BitVec.extractLsb'_zero

@[simp] theorem highPart_zero : highPart 0 = 0 := BitVec.extractLsb'_zero

@[simp] theorem extPart_zero : extPart 0 = 0 := BitVec.extractLsb'_zero

@[simp] theorem reset_toWord : Status.reset.toWord = 0 := by decide

/-! ## The register port and the conditions -/

/-- R321: a register reads its field, a part or the limited view of an accumulator, or the flags, and each of these
is zero after reset. -/
theorem reset_reg16 (r : Reg) : State.reset.reg16 r = 0 := by
  cases r with
  | a | b => exact limit_zero
  | a0 | b0 => exact lowPart_zero
  | a1 | b1 => exact highPart_zero
  | a2 | b2 => exact congrArg (BitVec.signExtend 16) extPart_zero
  | sr => exact reset_toWord
  | _ => rfl

/-- The conditions that ask for a set flag, or for `N` to differ from `V` (rule R241). -/
def condsOfSetFlags : List Cond := [.cs, .eq, .mi, .vs, .lt, .le, .ls]

/-- R241: with the four computed flags clear, and `SE` either way, a condition fails exactly if it asks for a set
flag. -/
theorem holds_of_flags_clear (cond : Cond) (se : Bool) :
    holds cond ⟨false, false, false, false, se⟩ = decide (cond ∉ condsOfSetFlags) := by
  cases cond <;> rfl

theorem reset_holds (cond : Cond) : holds cond State.reset.sr = decide (cond ∉ condsOfSetFlags) :=
  holds_of_flags_clear cond false

/-- Settles O59: every register reads as zero after reset, and a condition then holds exactly if it does not ask
for a set flag, as none of the first eight does. -/
theorem resetView : Obligations.ResetView := by
  have hclear : ∀ c ∈ [Cond.cc, .ne, .pl, .vc, .ge, .gt, .hi, .al], c ∉ condsOfSetFlags := by decide
  exact ⟨reset_reg16, fun c hc => (reset_holds c).trans (decide_eq_true (hclear c hc)),
    fun c hc => (reset_holds c).trans (decide_eq_false (not_not_intro hc))⟩

end Sys2Proof.Machine
end

section
/-! PROOFS. The frame of an evaluation: an opcode whose halves stay inside their frames leaves everything else as it
was, and its move leaves the other registers as its instruction wrote them. -/

namespace Sys2Proof.Machine

/-! ## Registers from a frame -/

theorem RegsKept.acc {regs : List Reg} {s t : State} (h : RegsKept regs s t) {d : Acc} (hd : accName d ∉ regs) :
    t.acc d = s.acc d :=
  acc_of_view (view_of_full (h _ (by rwa [home_accName])))

theorem RegsKept.addr {regs : List Reg} {s t : State} (h : RegsKept regs s t) {n : AddrReg}
    (hn : addrName n ∉ regs) : t.addr n = s.addr n :=
  addr_of_view (view_of_full (h _ (by rwa [home_addrName])))

theorem RegsKept.sr {regs : List Reg} {s t : State} (h : RegsKept regs s t) (hsr : .sr ∉ regs) : t.sr = s.sr :=
  sr_of_view (view_of_full (h _ hsr))

/-! ## The frame of an evaluation -/

/-- A write stays inside a frame: the listed whole registers and the listed words of X space; it is no push and no
pop. -/
def Write.Framed (regs : List Reg) (stored : List Word) : Write → Prop
  | .reg c _ => home c ∈ regs
  | .acc d _ => accName d ∈ regs
  | .mem addr _ => addr ∈ stored
  | .push _ _ => False
  | .pop => False
  | .flags _ => .sr ∈ regs

/-- The updates and the writes of a half, for any answers of the host, stay inside a frame. -/
structure Half.Framed (regs : List Reg) (stored : List Word) (h : Half) : Prop where
  updates : ∀ u ∈ h.updates, addrName u.reg ∈ regs
  writes : ∀ ans, ∀ w ∈ h.writes ans, w.Framed regs stored

/-- A half whose one write stays inside a frame. -/
theorem Half.framed_of_one {regs : List Reg} {stored : List Word} {h : Half} {w : List Word → Write}
    (hu : h.updates = []) (hw : ∀ ans, h.writes ans = [w ans]) (hf : ∀ ans, (w ans).Framed regs stored) :
    h.Framed regs stored :=
  ⟨by simp [hu], fun ans => by simpa [hw] using hf ans⟩

/-- A half whose two writes stay inside a frame. -/
theorem Half.framed_of_two {regs : List Reg} {stored : List Word} {h : Half} {w w' : List Word → Write}
    (hu : ∀ u ∈ h.updates, addrName u.reg ∈ regs) (hw : ∀ ans, h.writes ans = [w ans, w' ans])
    (hf : ∀ ans, (w ans).Framed regs stored) (hf' : ∀ ans, (w' ans).Framed regs stored) : h.Framed regs stored :=
  ⟨hu, fun ans => by simpa [hw] using ⟨hf ans, hf' ans⟩⟩

theorem Write.Framed.mono {p q : List Reg} {x y : List Word} {w : Write} (h : w.Framed p x) (hr : p ⊆ q)
    (hs : x ⊆ y) : w.Framed q y := by
  cases w with
  | reg | acc | flags => exact hr h
  | mem => exact hs h
  | push | pop => exact h

theorem Half.Framed.mono {p q : List Reg} {x y : List Word} {h : Half} (hh : h.Framed p x) (hr : p ⊆ q)
    (hs : x ⊆ y) : h.Framed q y :=
  ⟨fun u hu => hr (hh.updates u hu), fun ans w hw => (hh.writes ans w hw).mono hr hs⟩

theorem Write.Framed.regs_subset {regs : List Reg} {stored : List Word} {w : Write} (h : w.Framed regs stored) :
    w.regs ⊆ regs := by
  cases w with
  | reg | acc | flags => simpa [Write.regs, Write.Framed] using h
  | mem => exact List.nil_subset _
  | push | pop => exact h.elim

theorem Write.Framed.stores_subset {regs : List Reg} {stored : List Word} {w : Write} (h : w.Framed regs stored) :
    w.stores ⊆ stored := by
  cases w with
  | mem => simpa [Write.stores, Write.Framed] using h
  | reg | acc | flags => exact List.nil_subset _
  | push | pop => exact h.elim

/-- A write inside a frame is no push and no pop: it keeps the loop stack. -/
theorem Write.Framed.apply_loop {regs : List Reg} {stored : List Word} {w : Write} (h : w.Framed regs stored)
    (s : State) : (w.apply s).ls = s.ls ∧ (w.apply s).lsp = s.lsp := by
  cases w with
  | reg | acc | mem | flags => simp [Write.apply]
  | push | pop => exact h.elim

theorem Update.write_framed {regs : List Reg} {stored : List Word} {u : Update} (h : addrName u.reg ∈ regs) :
    u.write.Framed regs stored := by
  simpa [Update.write, Write.Framed] using h

/-- Writes inside a frame change nothing outside it. -/
theorem applyWrites_frame {regs : List Reg} {stored : List Word} {ws : List Write}
    (h : ∀ w ∈ ws, w.Framed regs stored) (s : State) : Frame regs stored s (applyWrites ws s) := by
  have hloop := applyWrites_keeps_of_mem (P := fun t => t.ls = s.ls ∧ t.lsp = s.lsp) (ws := ws) (s := s)
    (fun w hw t ht => ⟨((h w hw).apply_loop t).1.trans ht.1, ((h w hw).apply_loop t).2.trans ht.2⟩) ⟨rfl, rfl⟩
  refine ⟨(applyWrites_regsKept ws s).mono ?_, hloop.1, hloop.2, applyWrites_pmem ws s,
    (applyWrites_memKept ws s).mono ?_⟩
  · exact fun r hr => (List.mem_flatMap.1 hr).elim fun w hw => (h w hw.1).regs_subset hw.2
  · exact fun a ha => (List.mem_flatMap.1 ha).elim fun w hw => (h w hw.1).stores_subset hw.2

/-- The state between the writes of the instruction and those of the move (rule R264, between steps 4 and 5). -/
def instrState (mv ins : Half) (ia : List Word) (s : State) : State :=
  applyWrites (ins.writes ia) (applyUpdates (mv.updates ++ ins.updates) s)

theorem evaluateWith_eq_move (size : Nat) (mv ins : Half) (ma ia : List Word) (s : State) :
    evaluateWith size mv ins ma ia s =
      (applyWrites (mv.writes ma) (instrState mv ins ia s)).setPc
        (ins.target.getD (s.pc + BitVec.ofNat 16 size)) := rfl

theorem RegsKept.setPc {regs : List Reg} {s t : State} (h : RegsKept regs s t) (p : Word) :
    RegsKept regs s (t.setPc p) := fun r hr => (setPc_full t r p).trans (h r hr)

/-- Both halves inside frames, and no override of the program counter: the opcode stays inside both frames and goes
on to the next, and its move changes the move's registers alone. -/
theorem evaluateWith_frame {mv ins : Half} {mregs iregs : List Reg} {mstored istored : List Word}
    (hmv : mv.Framed mregs mstored) (hins : ins.Framed iregs istored) (htarget : ins.target = none) (size : Nat)
    (ma ia : List Word) (s : State) :
    FrameNext size (iregs ++ mregs) (istored ++ mstored) s (evaluateWith size mv ins ma ia s) ∧
      RegsKept mregs (instrState mv ins ia s) (evaluateWith size mv ins ma ia s) := by
  have hmv' : mv.Framed (iregs ++ mregs) (istored ++ mstored) :=
    hmv.mono (List.subset_append_right _ _) (List.subset_append_right _ _)
  have hins' : ins.Framed (iregs ++ mregs) (istored ++ mstored) :=
    hins.mono (List.subset_append_left _ _) (List.subset_append_left _ _)
  have hall : ∀ w ∈ commitWrites mv ins ma ia, w.Framed (iregs ++ mregs) (istored ++ mstored) := by
    intro w hw
    simp only [commitWrites, List.mem_append, List.mem_map] at hw
    rcases hw with (⟨u, hu | hu, rfl⟩ | hw) | hw
    · exact Update.write_framed (hmv'.updates u hu)
    · exact Update.write_framed (hins'.updates u hu)
    · exact hins'.writes ia w hw
    · exact hmv'.writes ma w hw
  obtain ⟨hregs, hrest⟩ := applyWrites_frame hall s
  have hmove := (applyWrites_frame (hmv.writes ma) (instrState mv ins ia s)).1
  refine ⟨⟨?_, ?_⟩, hmove.setPc _⟩
  · rw [evaluateWith_pc, htarget, Option.getD_none]
  · rw [evaluateWith_eq_applyWrites]
    exact ⟨hregs.setPc _, hrest⟩

end Sys2Proof.Machine
end

section
/-! PROOFS. The parallel moves: they are done from the pre-state, whatever they are paired with, and for any answers
of the host; X space changes by the writes on the bus (O21, O23, O24, O25, O26). -/

namespace Sys2Proof.Machine

/-! ## The frames of the move halves -/

theorem moveHalf_framed (m : PMove) (s : State) : (moveHalf m s).Framed (moveRegs m) (moveStores m s) := by
  refine ⟨fun u hu => addrName_mem_moveRegs hu, fun ans w hw => ?_⟩
  cases m with
  | empty => cases hw
  | regmove | immload | absread | memread =>
    obtain rfl := List.mem_singleton.1 hw
    simp [Write.Framed, moveRegs]
  | abswrite | memwrite =>
    obtain rfl := List.mem_singleton.1 hw
    exact List.mem_singleton_self _

theorem dualHalf_framed (m : DMove) (s : State) : (dualHalf m s).Framed (dualRegs m) [] := by
  have hu : ∀ u ∈ (dualHalf m s).updates, addrName u.reg ∈ dualRegs m := fun u hu => addrName_mem_dualRegs hu
  cases m with
  | dualread | dualreg =>
    exact Half.framed_of_two hu (fun _ => rfl) (fun _ => by simp [Write.Framed, dualRegs])
      fun _ => by simp [Write.Framed, dualRegs]

theorem emptyHalf_framed : emptyHalf.Framed [] [] := ⟨nofun, nofun⟩

/-! ## What the move halves have done -/

/-- The register port writes a register of a format P move whole (rules R25, R38). -/
theorem moved_setReg16 (dst : MoveReg) (v : Word) (s : State) (p : Word) :
    Moved dst v ((s.setReg16 (moveName dst) v).setPc p) := by
  cases dst with
  | a | b => exact ext40_eq_aligned v
  | _ => rfl

/-- An instruction half that a parallel move can be paired with: it updates no address register, overrides no
program counter, and writes accumulators and flags alone (rules R83, R87). -/
structure Half.Pairable (regs : List Reg) (h : Half) : Prop where
  updates : h.updates = []
  target : h.target = none
  framed : h.Framed regs []
  regs_subset : regs ⊆ [.a, .b, .sr]

theorem Half.Pairable.addrName_not_mem {regs : List Reg} {h : Half} (hh : h.Pairable regs) (n : AddrReg) :
    addrName n ∉ regs := fun hn => by
  have := hh.regs_subset hn
  cases n <;> simp [addrName] at this

/-- A paired instruction leaves the address registers at the move's updates. -/
theorem Half.Pairable.instrState_addr {regs : List Reg} {ins : Half} (h : ins.Pairable regs) (mv : Half)
    (ia : List Word) (s : State) (n : AddrReg) :
    (instrState mv ins ia s).addr n = (applyUpdates mv.updates s).addr n := by
  rw [instrState, h.updates, List.append_nil]
  exact (applyWrites_frame (h.framed.writes ia) _).1.addr (h.addrName_not_mem n)

/-- The parallel move is done from the pre-state, whatever it is paired with (rules R141 to R147, R152). -/
theorem moveDone_evaluateWith {regs : List Reg} {ins : Half} (h : ins.Pairable regs) (m : PMove) (size : Nat)
    (ia : List Word) (s : State) :
    MoveDone m s (evaluateWith size (moveHalf m s) ins ((moveHalf m s).reads.map s.memRead) ia s) := by
  have haddr := h.instrState_addr (moveHalf m s) ia s
  rw [evaluateWith_eq_move]
  cases m with
  | empty => trivial
  | regmove | immload | absread => exact moved_setReg16 _ _ _ _
  | abswrite src addr => exact memRead_memWrite_self _ addr _
  | memread rn dst =>
    refine ⟨moved_setReg16 _ _ _ _, ?_⟩
    have hdst : moveName dst ≠ addrName rn := by cases dst <;> cases rn <;> decide
    exact (setReg16_addr _ _ _ rn).trans ((if_neg hdst).trans ((haddr rn).trans (setAddr_addr_self s rn _)))
  | memwrite src rn =>
    exact ⟨memRead_memWrite_self _ (s.addr rn) _, (haddr rn).trans (setAddr_addr_self s rn _)⟩

theorem applyUpdates_append (us vs : List Update) (s : State) :
    applyUpdates (us ++ vs) s = applyUpdates vs (applyUpdates us s) := List.foldl_append

/-- The address register of a mode after the mode's update (rule R121). -/
theorem applyUpdates_mode_self (mode : Mode) (n : AddrReg) {s t : State} (h : t.addr n = s.addr n) :
    (applyUpdates (updateList (resolve (addrModeOf mode n) s)) t).addr n = addrAfter mode n s := by
  cases mode with
  | indirect | indexed => exact h
  | _ => exact setAddr_addr_self t n _

theorem applyUpdates_mode_ne (mode : Mode) {n q : AddrReg} (h : q ≠ n) (s t : State) :
    (applyUpdates (updateList (resolve (addrModeOf mode n) s)) t).addr q = t.addr q := by
  cases mode with
  | indirect | indexed => rfl
  | _ => exact setAddr_addr_ne t n q _ h

/-- The two destinations of a dual read after both writes: they are different registers (rule R148). -/
theorem reg16_dualWrites (dst1 : XReg) (dst2 : YReg) (v1 v2 : Word) (s : State) (p : Word) :
    (((s.setReg16 (xName dst1) v1).setReg16 (yName dst2) v2).setPc p).reg16 (xName dst1) = v1 ∧
      (((s.setReg16 (xName dst1) v1).setReg16 (yName dst2) v2).setPc p).reg16 (yName dst2) = v2 := by
  cases dst1 <;> cases dst2 <;> exact ⟨rfl, rfl⟩

/-- The two destinations of a dual register move after both writes, slot 2 last (rule R149). -/
theorem data_dualWrites (dst1 dst2 : DataReg) (v1 v2 : Word) (s : State) (p : Word) :
    (dst1 ≠ dst2 →
      (((s.setReg16 (dataName dst1) v1).setReg16 (dataName dst2) v2).setPc p).data dst1 = v1) ∧
      (((s.setReg16 (dataName dst1) v1).setReg16 (dataName dst2) v2).setPc p).data dst2 = v2 := by
  have hinj : ∀ {x y : DataReg}, dataName x = dataName y → x = y := fun {x y} => by
    cases x <;> cases y <;> decide
  refine ⟨fun hne => ?_, ?_⟩
  · rw [setPc_data, setReg16_data, if_neg fun e => hne (hinj e).symm, setReg16_data, if_pos rfl]
  · rw [setPc_data, setReg16_data, if_pos rfl]

theorem reg16_dataName (s : State) (r : DataReg) : s.reg16 (dataName r) = s.data r := by cases r <;> rfl

theorem reg16_accName (s : State) (d : Acc) : s.reg16 (accName d) = limit (s.acc d) := by cases d <;> rfl

theorem dualread_reads (base : Slot1Base) (mode1 : DualMode) (dst1 : XReg) (mode2 : DualMode) (dst2 : YReg)
    (s : State) : (dualHalf (.dualread base mode1 dst1 mode2 dst2) s).reads = [s.addr (slot1Addr base), s.r3] := by
  simp only [dualHalf, resolve_dualMode_ea]
  rfl

/-- The dual read writes no address register but by its modes' updates (rules R121, R148). -/
theorem addr_dualWrites (dst1 : XReg) (dst2 : YReg) (v1 v2 : Word) (s : State) (p : Word) (n : AddrReg) :
    (((s.setReg16 (xName dst1) v1).setReg16 (yName dst2) v2).setPc p).addr n = s.addr n := by
  have hx : xName dst1 ≠ addrName n := by cases dst1 <;> cases n <;> decide
  have hy : yName dst2 ≠ addrName n := by cases dst2 <;> cases n <;> decide
  rw [setPc_addr, setReg16_addr, if_neg hy, setReg16_addr, if_neg hx]

/-- The dual move is done from the pre-state, whatever it is paired with (rules R148, R149, R152). -/
theorem dualDone_evaluateWith {regs : List Reg} {ins : Half} (h : ins.Pairable regs) (m : DMove) (size : Nat)
    (ia : List Word) (s : State) :
    DualDone m s (evaluateWith size (dualHalf m s) ins ((dualHalf m s).reads.map s.memRead) ia s) := by
  have haddr := h.instrState_addr (dualHalf m s) ia s
  rw [evaluateWith_eq_move]
  cases m with
  | dualread base mode1 dst1 mode2 dst2 =>
    have hbase : slot1Addr base ≠ .r3 := by cases base <;> decide
    simp only [dualHalf, applyUpdates_append] at haddr
    have h1 := (haddr (slot1Addr base)).trans
      ((applyUpdates_mode_ne (dualModeOfMode mode2) hbase s _).trans (applyUpdates_mode_self _ _ rfl))
    have h2 := (haddr .r3).trans
      (applyUpdates_mode_self (dualModeOfMode mode2) .r3 (applyUpdates_mode_ne _ hbase.symm s s))
    rw [dualread_reads]
    have hregs := reg16_dualWrites dst1 dst2
    refine ⟨(hregs _ _ _ _).1, (hregs _ _ _ _).2, (addr_dualWrites dst1 dst2 _ _ _ _ _).trans h1,
      (addr_dualWrites dst1 dst2 _ _ _ _ .r3).trans h2⟩
  | dualreg src1 dst1 src2 dst2 =>
    rw [DualDone, ← reg16_dataName s, ← reg16_accName]
    exact data_dualWrites _ _ _ _ _ _

/-! ## The frames of the instruction halves -/

theorem accResult_framed (d : Acc) (r : Wide) (u : FlagUpdate) : (accResult d r u).Framed [accName d, .sr] [] :=
  Half.framed_of_two nofun (fun _ => rfl) (fun _ => by simp [Write.Framed]) fun _ => by simp [Write.Framed]

theorem highResult_framed (d : Acc) (x : Word) (u : FlagUpdate) : (highResult d x u).Framed [accName d, .sr] [] :=
  Half.framed_of_two nofun (fun _ => rfl) (fun _ => by simp [Write.Framed]) fun _ => by simp [Write.Framed]

theorem flagResult_framed (u : FlagUpdate) : (flagResult u).Framed [.sr] [] :=
  Half.framed_of_one rfl (fun _ => rfl) fun _ => List.mem_singleton_self _

/-- The half of a transfer into an accumulator: one write of all 40 bits (rules R169, R184, R185). -/
def accWrite (d : Acc) (r : Wide) : Half := { writes := fun _ => [.acc d r] }

theorem tfrAccHalf_eq (d : Acc) (s : State) : tfrAccHalf d s = accWrite d (s.acc (otherAcc d)) := rfl

theorem tfrDataHalf_eq (src : DataReg) (d : Acc) (s : State) :
    tfrDataHalf src d s = accWrite d (aligned (s.data src)) := by
  rw [← ext40_eq_aligned]
  rfl

theorem tfrAddrHalf_eq (rn : AddrReg) (d : Acc) (s : State) :
    tfrAddrHalf rn d s = accWrite d (aligned (s.addr rn)) := by
  rw [← ext40_eq_aligned]
  rfl

theorem accWrite_framed (d : Acc) (r : Wide) : (accWrite d r).Framed [accName d] [] :=
  Half.framed_of_one rfl (fun _ => rfl) fun _ => List.mem_singleton_self _

theorem accName_sr_subset (d : Acc) : [accName d, .sr] ⊆ [Reg.a, .b, .sr] := by cases d <;> decide

theorem accResult_pairable (d : Acc) (r : Wide) (u : FlagUpdate) : (accResult d r u).Pairable [accName d, .sr] :=
  ⟨rfl, rfl, accResult_framed d r u, accName_sr_subset d⟩

theorem highResult_pairable (d : Acc) (x : Word) (u : FlagUpdate) :
    (highResult d x u).Pairable [accName d, .sr] :=
  ⟨rfl, rfl, highResult_framed d x u, accName_sr_subset d⟩

theorem flagResult_pairable (u : FlagUpdate) : (flagResult u).Pairable [.sr] :=
  ⟨rfl, rfl, flagResult_framed u, by decide⟩

theorem accWrite_pairable (d : Acc) (r : Wide) : (accWrite d r).Pairable [accName d] :=
  ⟨rfl, rfl, accWrite_framed d r, by cases d <;> decide⟩

theorem nopHalf_pairable : nopHalf.Pairable [] := ⟨rfl, rfl, ⟨nofun, nofun⟩, List.nil_subset _⟩

/-- Every instruction with a parallel move can be paired with one. -/
theorem instrHalfOf_pairable {i : Instr} (h : pMoveOf i ≠ none ∨ dMoveOf i ≠ none) (s : State) :
    ∃ regs, (instrHalfOf i s).Pairable regs := by
  cases i with
  | empty | regmove | immload | absread | abswrite | memread | memwrite => exact ⟨_, nopHalf_pairable⟩
  | clr | abs | neg | rnd | asl | asr | inc | dec | add | addAcc | sub | subAcc | mpy | mpyr | mac | macr
  | dualread | dualreg | mpyrD | macD | macrD => exact ⟨_, accResult_pairable _ _ _⟩
  | not | and | or | eor | lsl | lsr | rol | ror => exact ⟨_, highResult_pairable _ _ _⟩
  | tst | cmp | cmpAcc => exact ⟨_, flagResult_pairable _⟩
  | tfrAcc | tfrData | tfrAddr => exact ⟨_, accWrite_pairable _ _⟩
  | _ => exact absurd h (by simp [pMoveOf, dMoveOf])

theorem moveHalfOf_of_pMoveOf {i : Instr} {m : PMove} (h : pMoveOf i = some m) (s : State) :
    moveHalfOf i s = moveHalf m s := by
  rcases moveHalfOf_cases i s with ⟨m', hp, e⟩ | ⟨_, hp, _⟩ | ⟨hp, _⟩
  · rw [e, Option.some.inj (h.symm.trans hp)]
  · cases h.symm.trans hp
  · cases h.symm.trans hp

theorem moveHalfOf_of_dMoveOf {i : Instr} {m : DMove} (h : dMoveOf i = some m) (s : State) :
    moveHalfOf i s = dualHalf m s := by
  rcases moveHalfOf_cases i s with ⟨_, hp, _⟩ | ⟨m', _, hd, e⟩ | ⟨_, hd, _⟩
  · cases (pMoveOf_eq_none_of_dMoveOf h).symm.trans hp
  · rw [e, Option.some.inj (h.symm.trans hd)]
  · cases h.symm.trans hd

/-- Settles O24: the move's writes come last, and no paired instruction writes an address register. -/
theorem parallelMoveIsDone : Obligations.ParallelMoveIsDone := by
  intro i m s hm
  obtain ⟨regs, hins⟩ := instrHalfOf_pairable (i := i) (.inl (by simp [hm])) s
  refine ⟨_, exec_eq_evaluateOpcode i s, ?_⟩
  rw [evaluateOpcode, moveHalfOf_of_pMoveOf hm]
  exact moveDone_evaluateWith hins m _ _ s

/-- Settles O25: as O24, with the two writes of a dual move in the order of their slots. -/
theorem dualMoveIsDone : Obligations.DualMoveIsDone := by
  intro i m s hm
  obtain ⟨regs, hins⟩ := instrHalfOf_pairable (i := i) (.inr (by simp [hm])) s
  refine ⟨_, exec_eq_evaluateOpcode i s, ?_⟩
  rw [evaluateOpcode, moveHalfOf_of_dMoveOf hm]
  exact dualDone_evaluateWith hins m _ _ s

/-! ## Opcodes of format P, D and N -/

/-- A format P opcode does its move from the pre-state and stays inside its frame; its move leaves the other
registers as the instruction wrote them. -/
theorem evaluateP_done {regs : List Reg} {ins : Half} (h : ins.Pairable regs) (m : PMove) (s : State) :
    ∃ t, evaluateP m ins s = .next t ∧ MoveDone m s t ∧ PFrame m regs s t ∧
      RegsKept (moveRegs m) (instrState (moveHalf m s) ins (ins.reads.map s.memRead) s) t := by
  obtain ⟨hframe, hmove⟩ := evaluateWith_frame (moveHalf_framed m s) h.framed h.target m.size
    ((moveHalf m s).reads.map s.memRead) (ins.reads.map s.memRead) s
  exact ⟨_, rfl, moveDone_evaluateWith h m _ _ s, hframe, hmove⟩

/-- A format D opcode stays inside its frame; its move leaves the other registers as the instruction wrote them. -/
theorem evaluateD_done {regs : List Reg} {ins : Half} (h : ins.Pairable regs) (m : DMove) (s : State) :
    ∃ t, evaluateD m ins s = .next t ∧ FrameNext 1 (regs ++ dualRegs m) [] s t ∧
      RegsKept (dualRegs m) (instrState (dualHalf m s) ins (ins.reads.map s.memRead) s) t := by
  obtain ⟨hframe, hmove⟩ := evaluateWith_frame (dualHalf_framed m s) h.framed h.target 1
    ((dualHalf m s).reads.map s.memRead) (ins.reads.map s.memRead) s
  exact ⟨_, rfl, hframe, hmove⟩

/-- A format N opcode stays inside its frame and leaves the state as its instruction wrote it, but for `pc`. -/
theorem evaluateN_done {regs : List Reg} {stored : List Word} {ins : Half} {s : State} (h : ins.Framed regs stored)
    (htarget : ins.target = none) (size : Nat) :
    ∃ t p, evaluateN size ins s = .next t ∧ FrameNext size regs stored s t ∧
      t = (applyWrites (ins.writes (ins.reads.map s.memRead)) (applyUpdates ins.updates s)).setPc p := by
  obtain ⟨hframe, -⟩ := evaluateWith_frame emptyHalf_framed h htarget size [] (ins.reads.map s.memRead) s
  rw [List.append_nil, List.append_nil] at hframe
  exact ⟨_, _, rfl, hframe, rfl⟩

/-- Settles O26: `NOP` writes nothing, so that what is left of the opcode is its move. -/
theorem movesWithNopAndNop : Obligations.MovesWithNopAndNop := by
  intro s
  have hdone : ∀ m, ∃ t, evaluateP m nopHalf s = .next t ∧ MoveDone m s t ∧ PFrame m [] s t := fun m => by
    obtain ⟨t, ht, hmove, hframe, -⟩ := evaluateP_done nopHalf_pairable m s
    exact ⟨t, ht, hmove, hframe⟩
  refine ⟨rfl, fun src dst => hdone (.regmove src dst), fun imm dst => hdone (.immload imm dst),
    fun addr dst => hdone (.absread addr dst), fun src addr => hdone (.abswrite src addr), fun rn dst => ?_,
    fun src rn => ?_, rfl⟩
  · obtain ⟨t, ht, ⟨hmove, haddr⟩, hframe⟩ := hdone (.memread rn dst)
    exact ⟨t, ht, hmove, haddr, hframe⟩
  · obtain ⟨t, ht, ⟨hmove, haddr⟩, hframe⟩ := hdone (.memwrite src rn)
    exact ⟨t, ht, hmove, haddr, hframe⟩

/-! ## X space and the writes on the bus (O21) -/

/-- What an access does to X space (log 1). -/
def BusCall.store (m : Memory) : BusCall → Memory
  | .memRead _ => m
  | .memWrite addr v => m.writeWord addr v

/-- X space after a list of writes: its memory writes, in their order. -/
theorem applyWrites_xmem (ws : List Write) (s : State) :
    (applyWrites ws s).xmem = (busWrites ws).foldl BusCall.store s.xmem := by
  induction ws generalizing s with
  | nil => rfl
  | cons w ws ih =>
    rw [applyWrites_cons, ih, Write.apply_xmem]
    cases w <;> rfl

/-- Bytes outside the words of the memory writes read as before. -/
theorem read_foldl_store (calls : List BusCall) (m : Memory) {k : Nat}
    (h : ∀ addr v, .memWrite addr v ∈ calls → k ≠ 2 * addr.toNat ∧ k ≠ 2 * addr.toNat + 1) :
    (calls.foldl BusCall.store m).read k = m.read k := by
  induction calls generalizing m with
  | nil => rfl
  | cons c calls ih =>
    rw [List.foldl_cons, ih _ fun addr v hmem => h addr v (List.mem_cons_of_mem _ hmem)]
    cases c with
    | memRead addr => rfl
    | memWrite addr v =>
      obtain ⟨h0, h1⟩ := h addr v List.mem_cons_self
      exact Memory.read_writeWord_ne m addr v k h0 h1

/-- The memory writes of an opcode, the instruction's before the move's (rule R66). -/
def storesOf (i : Instr) (s : State) : List BusCall :=
  busWrites ((instrHalfOf i s).writes ((instrHalfOf i s).reads.map s.memRead)) ++
    busWrites ((moveHalfOf i s).writes ((moveHalfOf i s).reads.map s.memRead))

theorem memWrite_mem_busCalls {i : Instr} {s : State} {addr v : Word} :
    .memWrite addr v ∈ busCalls i s ↔ .memWrite addr v ∈ storesOf i s := by
  simp [busCalls, busCallsWith, storesOf]

theorem exec_xmem (i : Instr) (s : State) :
    ∃ t, exec i s = .next t ∧ t.xmem = (storesOf i s).foldl BusCall.store s.xmem := by
  refine ⟨_, exec_eq_evaluateOpcode i s, ?_⟩
  rw [evaluateOpcode, evaluateWith_eq_move, setPc_xmem, applyWrites_xmem, instrState, applyWrites_xmem,
    applyUpdates_xmem, storesOf, List.foldl_append]

/-- An opcode makes at most one memory write (rule R66). -/
theorem storesOf_length_le (i : Instr) (s : State) : (storesOf i s).length ≤ 1 := by
  by_cases ha : accessesMemory i = true
  · cases i with
    | moveLoad dst mode => cases mode <;> exact Nat.zero_le 1
    | moveLoadDisp | moveLoadAbs | btstMem => exact Nat.zero_le 1
    | moveStore src mode => cases mode <;> exact Nat.le_refl 1
    | moveStoreDisp | moveStoreAbs | bsetMem | bclrMem | bchgMem => exact Nat.le_refl 1
    | _ => cases ha
  · have hsilent := instrHalfOf_silent (Bool.eq_false_of_not_eq_true ha) s
    rw [storesOf, hsilent.2, List.nil_append]
    rcases moveHalfOf_cases i s with ⟨m, -, e⟩ | ⟨m, -, -, e⟩ | ⟨-, -, e⟩
    · rw [e]
      cases m with
      | abswrite | memwrite => exact Nat.le_refl 1
      | _ => exact Nat.zero_le 1
    · rw [e]
      cases m <;> exact Nat.zero_le 1
    · rw [e]
      exact Nat.zero_le 1

/-- Settles O21: the next X space is the old one with the opcode's memory writes, of which there is at most one. -/
theorem dataSpaceChangesByBusWrites : Obligations.DataSpaceChangesByBusWrites := by
  intro i s
  obtain ⟨t, ht, hx⟩ := exec_xmem i s
  refine ⟨t, ht, fun addr v hmem => ?_, fun k hk => ?_⟩
  · obtain ⟨c, hc⟩ : ∃ c, storesOf i s = [c] :=
      List.length_eq_one_iff.1 (Nat.le_antisymm (storesOf_length_le i s)
        (List.length_pos_of_mem (memWrite_mem_busCalls.1 hmem)))
    obtain rfl : BusCall.memWrite addr v = c := List.mem_singleton.1 (hc ▸ memWrite_mem_busCalls.1 hmem)
    rw [State.memRead, hx, hc]
    exact Memory.readWord_writeWord_self s.xmem addr v
  · rw [hx]
    exact read_foldl_store _ _ fun addr v hmem => hk addr v (memWrite_mem_busCalls.2 hmem)

/-! ## Any answers of the host (O23) -/

/-- The register port's value does not depend on what is outside the register (rule R38): `s` gives the other bits
of a partly written accumulator. -/
theorem PortHolds.congr {r : Reg} {v : Word} {s s' t t' : State} (h : PortHolds r v s' t')
    (hs : ∀ d, s'.acc d = s.acc d) (ht : t.full r = t'.full r) : PortHolds r v s t := by
  have ha : s'.a = s.a := hs .a
  have hb : s'.b = s.b := hs .b
  cases r with
  | a | b => exact Eq.trans ht h
  | a0 | a1 | a2 => exact Eq.trans ht (ha ▸ h)
  | b0 | b1 | b2 => exact Eq.trans ht (hb ▸ h)
  | sr => exact Eq.trans (sr_of_view (view_of_full ht)) h
  | _ => exact Eq.trans (reg16_of_view (view_of_full ht)) h

/-- A dual read leaves X space as it is: its two words go into registers, and so does the product. -/
theorem evaluateOpcode_dualread_xmem {i : Instr} {base : Slot1Base} {mode1 : DualMode} {dst1 : XReg}
    {mode2 : DualMode} {dst2 : YReg} (h : dMoveOf i = some (.dualread base mode1 dst1 mode2 dst2)) (s : State)
    (ma ia : List Word) : (evaluateOpcode i ma ia s).xmem = s.xmem := by
  have hins := (instrHalfOf_silent (accessesMemory_of_dMoveOf h) s).2 ia
  rw [evaluateOpcode, moveHalfOf_of_dMoveOf h, evaluateWith_eq_move, setPc_xmem, applyWrites_xmem, instrState,
    applyWrites_xmem, applyUpdates_xmem, hins]
  rfl

/-- A load writes the word the host answers, after its address-register update (rules R126, R221). -/
theorem loadHalf_portHolds {mode : AddrMode} {s : State} (hmode : (resolve mode s).imm = none) (dst : Reg)
    (size : Nat) (v : Word) : PortHolds dst v s (evaluateWith size emptyHalf (loadHalf dst mode s) [] [v] s) := by
  have hw : (loadHalf dst mode s).writes [v] = [.reg dst v] := by
    simp only [loadHalf, hmode]
    rfl
  rw [evaluateWith_eq_move, instrState, hw]
  exact (setReg16_portHolds dst v _).congr (applyUpdates_acc _ s) (setPc_full _ dst _)

/-- Settles O23: the answers reach the writes of the halves, and nothing else. -/
theorem anyAnswersOfTheHost : Obligations.AnyAnswersOfTheHost := by
  intro v1 v2 s
  refine ⟨fun i base mode1 dst1 mode2 dst2 hd => ?dual, fun rn dst i hp => ?read, fun addr dst i hp => ?absread,
    fun dst mode rn => ?load, fun dst rn disp => loadHalf_portHolds (mode := .displaced rn disp) rfl dst 2 v1,
    fun dst addr => loadHalf_portHolds (mode := .absolute addr) rfl dst 2 v1, fun bit rn i hi => ?bit,
    fun _ _ => rfl, fun _ _ => rfl, fun _ _ => rfl⟩
  case dual =>
    refine ⟨?_, ?_, evaluateOpcode_dualread_xmem hd s _ _⟩
    all_goals rw [evaluateOpcode, moveHalfOf_of_dMoveOf hd, evaluateWith_eq_move]
    · exact (reg16_dualWrites dst1 dst2 v1 v2 _ _).1
    · exact (reg16_dualWrites dst1 dst2 v1 v2 _ _).2
  case read =>
    rw [evaluateOpcode, moveHalfOf_of_pMoveOf hp, evaluateWith_eq_move]
    exact moved_setReg16 dst v1 _ _
  case absread =>
    rw [evaluateOpcode, moveHalfOf_of_pMoveOf hp, evaluateWith_eq_move]
    exact moved_setReg16 dst v1 _ _
  case load =>
    have himm : (resolve (addrModeOf mode rn) s).imm = none := by cases mode <;> rfl
    exact loadHalf_portHolds himm dst 1 v1
  case bit =>
    simp only [List.mem_cons, List.not_mem_nil, or_false] at hi
    rcases hi with rfl | rfl | rfl | rfl
    all_goals rfl

end Sys2Proof.Machine
end

section
/-! PROOFS. The accumulator instructions: what the shared halves leave in the accumulator and in `SR`, sums,
differences and compares, one-operand instructions, shifts and products (O27 to O40, O49). -/

namespace Sys2Proof.Machine

/-! ## What the shared instruction halves leave in the accumulator and in `SR` -/

theorem setReg16_highName (s : State) (d : Acc) (x : Word) :
    s.setReg16 (highName d) x = s.setAcc d (replaceHigh (s.acc d) x) := by
  cases d <;> rfl

theorem applyWrites_accResult (d : Acc) (r : Wide) (u : FlagUpdate) (ans : List Word) (s : State) :
    applyWrites ((accResult d r u).writes ans) s = (s.setAcc d r).setSr (u.apply s.sr) := by
  simp [accResult, Write.apply]

theorem applyWrites_highResult (d : Acc) (x : Word) (u : FlagUpdate) (ans : List Word) (s : State) :
    applyWrites ((highResult d x u).writes ans) s =
      (s.setAcc d (replaceHigh (s.acc d) x)).setSr (u.apply s.sr) := by
  simp [highResult, Write.apply, setReg16_highName]

theorem applyWrites_flagResult (u : FlagUpdate) (ans : List Word) (s : State) :
    applyWrites ((flagResult u).writes ans) s = s.setSr (u.apply s.sr) := rfl

theorem applyWrites_accWrite (d : Acc) (r : Wide) (ans : List Word) (s : State) :
    applyWrites ((accWrite d r).writes ans) s = s.setAcc d r := rfl

/-! In each lemma, `r` or `x` is the result and `f` the flags as a statement spells them. -/

theorem evaluateP_accResult {d : Acc} {s : State} {r' r : Wide} {u : FlagUpdate} {f : Status} (hr : r' = r)
    (hf : u.apply s.sr = f) (m : PMove) :
    ∃ t, evaluateP m (accResult d r' u) s = .next t ∧ PDone m d r f s t := by
  subst hr hf
  obtain ⟨t, ht, hmove, hframe, hkept⟩ := evaluateP_done (accResult_pairable d r' u) m s
  refine ⟨t, ht, fun hd => ?_, ?_, hmove, hframe⟩
  · rw [hkept.acc hd, instrState, applyWrites_accResult, setSr_acc, setAcc_acc_self]
  · rw [hkept.sr (sr_not_mem_moveRegs m), instrState, applyWrites_accResult, setSr_sr, applyUpdates_sr]

theorem evaluateP_highResult {d : Acc} {s : State} {x' x : Word} {u : FlagUpdate} {f : Status} (hx : x' = x)
    (hf : u.apply s.sr = f) (m : PMove) :
    ∃ t, evaluateP m (highResult d x' u) s = .next t ∧ PDone m d (replaceHigh (s.acc d) x) f s t := by
  subst hx hf
  obtain ⟨t, ht, hmove, hframe, hkept⟩ := evaluateP_done (highResult_pairable d x' u) m s
  refine ⟨t, ht, fun hd => ?_, ?_, hmove, hframe⟩
  · rw [hkept.acc hd, instrState, applyWrites_highResult, setSr_acc, setAcc_acc_self, applyUpdates_acc]
  · rw [hkept.sr (sr_not_mem_moveRegs m), instrState, applyWrites_highResult, setSr_sr, applyUpdates_sr]

theorem evaluateP_flagResult {s : State} {u : FlagUpdate} {f : Status} (hf : u.apply s.sr = f) (m : PMove) :
    ∃ t, evaluateP m (flagResult u) s = .next t ∧ PFlags m f s t := by
  subst hf
  obtain ⟨t, ht, hmove, hframe, hkept⟩ := evaluateP_done (flagResult_pairable u) m s
  refine ⟨t, ht, ?_, hmove, hframe⟩
  rw [hkept.sr (sr_not_mem_moveRegs m), instrState, applyWrites_flagResult, setSr_sr, applyUpdates_sr]

theorem evaluateP_accWrite (m : PMove) (d : Acc) (r : Wide) (s : State) :
    ∃ t, evaluateP m (accWrite d r) s = .next t ∧ PWrote m d r s t := by
  obtain ⟨t, ht, hmove, hframe, hkept⟩ := evaluateP_done (accWrite_pairable d r) m s
  refine ⟨t, ht, fun hd => ?_, hmove, hframe⟩
  rw [hkept.acc hd, instrState, applyWrites_accWrite, setAcc_acc_self]

theorem accName_not_mem_dualRegs (d : Acc) (m : DMove) : accName d ∉ dualRegs m := by
  have haddr : ∀ mode n, accName d ∉ modeUpdates mode n := fun mode n => by
    cases d <;> cases mode <;> cases n <;> decide
  cases m with
  | dualread base mode1 dst1 mode2 dst2 =>
    have hx : accName d ≠ xName dst1 := by cases d <;> cases dst1 <;> decide
    have hy : accName d ≠ yName dst2 := by cases d <;> cases dst2 <;> decide
    simp [dualRegs, haddr, hx, hy]
  | dualreg src1 dst1 src2 dst2 =>
    have hdata : ∀ r, accName d ≠ dataName r := fun r => by cases d <;> cases r <;> decide
    simp [dualRegs, hdata]

theorem evaluateD_accResult {d : Acc} {s : State} {r' r : Wide} {u : FlagUpdate} {f : Status} (hr : r' = r)
    (hf : u.apply s.sr = f) (m : DMove) :
    ∃ t, evaluateD m (accResult d r' u) s = .next t ∧ DDone m d r f s t := by
  subst hr hf
  obtain ⟨t, ht, hframe, hkept⟩ := evaluateD_done (accResult_pairable d r' u) m s
  refine ⟨t, ht, ?_, ?_, hframe⟩
  · rw [hkept.acc (accName_not_mem_dualRegs d m), instrState, applyWrites_accResult, setSr_acc, setAcc_acc_self]
  · rw [hkept.sr (sr_not_mem_dualRegs m), instrState, applyWrites_accResult, setSr_sr, applyUpdates_sr]

theorem evaluateN_accResult {d : Acc} {s : State} {r' r : Wide} {u : FlagUpdate} {f : Status} (hr : r' = r)
    (hf : u.apply s.sr = f) (size : Nat) :
    ∃ t, evaluateN size (accResult d r' u) s = .next t ∧ NDone size d r f s t := by
  subst hr hf
  obtain ⟨t, p, ht, hframe, rfl⟩ := evaluateN_done (s := s) (accResult_framed d r' u) rfl size
  rw [applyWrites_accResult] at *
  exact ⟨_, ht, setAcc_acc_self _ d r', rfl, hframe⟩

theorem evaluateN_highResult {d : Acc} {s : State} {x' x : Word} {u : FlagUpdate} {f : Status} (hx : x' = x)
    (hf : u.apply s.sr = f) (size : Nat) :
    ∃ t, evaluateN size (highResult d x' u) s = .next t ∧ NDone size d (replaceHigh (s.acc d) x) f s t := by
  subst hx hf
  obtain ⟨t, p, ht, hframe, rfl⟩ := evaluateN_done (s := s) (highResult_framed d x' u) rfl size
  rw [applyWrites_highResult] at *
  exact ⟨_, ht, setAcc_acc_self _ d _, rfl, hframe⟩

theorem evaluateN_flagResult {s : State} {u : FlagUpdate} {f : Status} (hf : u.apply s.sr = f) (size : Nat) :
    ∃ t, evaluateN size (flagResult u) s = .next t ∧ t.sr = f ∧ FrameNext size [.sr] [] s t := by
  subst hf
  obtain ⟨t, p, ht, hframe, rfl⟩ := evaluateN_done (s := s) (flagResult_framed u) rfl size
  exact ⟨_, ht, rfl, hframe⟩

/-! ## Flag updates as flags -/

theorem signedFlagsC_apply (c : Bool) (e : Int) (f : Status) :
    (signedFlagsC c e).apply f = flags40 c e (BitVec.ofInt 40 e) f := rfl

theorem signedFlags_apply (e : Int) (f : Status) :
    (signedFlags e).apply f = flags40 f.c e (BitVec.ofInt 40 e) f := rfl

theorem logicFlags_apply (x : Word) (f : Status) : (logicFlags x).apply f = flags16 f.c x f := rfl

theorem shiftFlags_apply (c : Bool) (x : Word) (f : Status) : (shiftFlags c x).apply f = flags16 c x f := rfl

/-! ## Sums and differences (rules R178, R179) -/

theorem trunc40_natCast (x : Wide) : trunc40 x.toNat = x := by
  simp [trunc40]

theorem trunc40_add (x y : Wide) : trunc40 (x.toNat + y.toNat) = x + y := by
  rw [trunc40, BitVec.ofInt_add]
  exact congrArg₂ _ (trunc40_natCast x) (trunc40_natCast y)

theorem ofInt_sub (i j : Int) : BitVec.ofInt 40 (i - j) = BitVec.ofInt 40 i - BitVec.ofInt 40 j := by
  rw [Int.sub_eq_add_neg, BitVec.ofInt_add, BitVec.ofInt_neg, BitVec.sub_eq_add_neg]

theorem trunc40_sub (x y : Wide) : trunc40 (x.toNat - y.toNat) = x - y := by
  rw [trunc40, ofInt_sub]
  exact congrArg₂ _ (trunc40_natCast x) (trunc40_natCast y)

theorem addFlags_apply (x y : Wide) (f : Status) :
    (addFlags x y).apply f =
      flags40 (decide (2 ^ 40 ≤ x.toNat + y.toNat)) (x.toInt + y.toInt) (x + y) f := by
  rw [addFlags, signedFlagsC_apply, BitVec.ofInt_add, BitVec.ofInt_toInt, BitVec.ofInt_toInt]

theorem subFlags_apply (x y : Wide) (f : Status) :
    (subFlags x y).apply f = flags40 (decide (x.toNat < y.toNat)) (x.toInt - y.toInt) (x - y) f := by
  rw [subFlags, signedFlagsC_apply, ofInt_sub, BitVec.ofInt_toInt, BitVec.ofInt_toInt]

theorem evaluateP_addHalf (m : PMove) (d : Acc) (y : Wide) (s : State) :
    ∃ t, evaluateP m (addHalf d y s) s = .next t ∧
      PDone m d (s.acc d + y) (flags40 (decide (2 ^ 40 ≤ (s.acc d).toNat + y.toNat))
        ((s.acc d).toInt + y.toInt) (s.acc d + y) s.sr) s t :=
  evaluateP_accResult (trunc40_add _ y) (addFlags_apply _ y s.sr) m

theorem evaluateP_subHalf (m : PMove) (d : Acc) (y : Wide) (s : State) :
    ∃ t, evaluateP m (subHalf d y s) s = .next t ∧
      PDone m d (s.acc d - y) (flags40 (decide ((s.acc d).toNat < y.toNat))
        ((s.acc d).toInt - y.toInt) (s.acc d - y) s.sr) s t :=
  evaluateP_accResult (trunc40_sub _ y) (subFlags_apply _ y s.sr) m

/-- Settles O34: the three instructions are one addition, with the source 1, an aligned register or the other
accumulator. -/
theorem incAndAdd : Obligations.IncAndAdd := fun m d s =>
  ⟨evaluateP_addHalf m d 1 s,
    fun src => ext40_eq_aligned (s.data src) ▸ evaluateP_addHalf m d (ext40 (s.data src)) s,
    evaluateP_addHalf m d (s.acc (otherAcc d)) s⟩

theorem evaluateN_addHalf (size : Nat) (d : Acc) (y : Wide) (s : State) :
    ∃ t, evaluateN size (addHalf d y s) s = .next t ∧
      NDone size d (s.acc d + y) (flags40 (decide (2 ^ 40 ≤ (s.acc d).toNat + y.toNat))
        ((s.acc d).toInt + y.toInt) (s.acc d + y) s.sr) s t :=
  evaluateN_accResult (trunc40_add _ y) (addFlags_apply _ y s.sr) size

theorem evaluateN_subHalf (size : Nat) (d : Acc) (y : Wide) (s : State) :
    ∃ t, evaluateN size (subHalf d y s) s = .next t ∧
      NDone size d (s.acc d - y) (flags40 (decide ((s.acc d).toNat < y.toNat))
        ((s.acc d).toInt - y.toInt) (s.acc d - y) s.sr) s t :=
  evaluateN_accResult (trunc40_sub _ y) (subFlags_apply _ y s.sr) size

theorem toNat_lt_one_iff (x : Wide) : x.toNat < (1 : Wide).toNat ↔ x = 0 := by
  rw [← BitVec.toNat_inj]
  exact Nat.lt_one_iff

/-- Settles O35: the three instructions are one subtraction; the borrow of `DEC` is that of a zero accumulator. -/
theorem decAndSub : Obligations.DecAndSub := by
  intro m d s
  have hdec := evaluateP_subHalf m d 1 s
  simp only [toNat_lt_one_iff] at hdec
  exact ⟨hdec, fun src => ext40_eq_aligned (s.data src) ▸ evaluateP_subHalf m d (ext40 (s.data src)) s,
    evaluateP_subHalf m d (s.acc (otherAcc d)) s⟩

theorem evaluateP_cmpHalf (m : PMove) (d : Acc) (y : Wide) (s : State) :
    ∃ t, evaluateP m (cmpHalf d y s) s = .next t ∧
      PFlags m (flags40 (decide ((s.acc d).toNat < y.toNat)) ((s.acc d).toInt - y.toInt) (s.acc d - y) s.sr)
        s t :=
  evaluateP_flagResult (subFlags_apply _ y s.sr) m

theorem evaluateN_cmpHalf (size : Nat) (d : Acc) (y : Wide) (s : State) :
    ∃ t, evaluateN size (cmpHalf d y s) s = .next t ∧
      t.sr = flags40 (decide ((s.acc d).toNat < y.toNat)) ((s.acc d).toInt - y.toInt) (s.acc d - y) s.sr ∧
      FrameNext size [.sr] [] s t :=
  evaluateN_flagResult (subFlags_apply _ y s.sr) size

/-- Settles O36: a compare is the flags of the subtraction alone. -/
theorem comparesWriteFlagsAlone : Obligations.ComparesWriteFlagsAlone := fun d s =>
  ⟨fun m src => ext40_eq_aligned (s.data src) ▸ evaluateP_cmpHalf m d (ext40 (s.data src)) s,
    fun m => evaluateP_cmpHalf m d (s.acc (otherAcc d)) s,
    fun imm => ext40_eq_aligned imm ▸ evaluateN_cmpHalf 2 d (ext40 imm) s⟩

/-- Settles O49: each is the accumulator operation with the immediate as its source. -/
theorem accumulatorImmediates : Obligations.AccumulatorImmediates := fun imm d s =>
  have hflags := fun x => logicFlags_apply x s.sr
  ⟨ext40_eq_aligned imm ▸ evaluateN_addHalf 2 d (ext40 imm) s,
    ext40_eq_aligned imm ▸ evaluateN_subHalf 2 d (ext40 imm) s,
    evaluateN_highResult rfl (hflags _) 2, evaluateN_highResult rfl (hflags _) 2,
    evaluateN_highResult rfl (hflags _) 2⟩

/-! ## The meaning of the conditions (rules R180, R241) -/

/-- An exact value that does not fit 40 bits by less than a turn wraps by one turn (rule R186). -/
theorem toInt_ofInt_cases {e : Int} (hlo : -2 ^ 40 ≤ e) (hhi : e < 2 ^ 40) :
    (misfits e = false ∧ (BitVec.ofInt 40 e).toInt = e) ∨
      (misfits e = true ∧ 0 < e ∧ (BitVec.ofInt 40 e).toInt = e - 2 ^ 40) ∨
      (misfits e = true ∧ e < 0 ∧ (BitVec.ofInt 40 e).toInt = e + 2 ^ 40) := by
  simp only [misfits, BitVec.toInt_ofInt, Int.bmod_def, Bool.or_eq_true, Bool.or_eq_false_iff,
    decide_eq_true_eq, decide_eq_false_iff_not]
  omega

/-- The sign of the wrapped difference differs from the overflow exactly where the first value is the smaller
one. -/
theorem msb_sub_xor_misfits (x y : Wide) :
    ((x - y).msb ^^ misfits (x.toInt - y.toInt)) = decide (x.toInt < y.toInt) := by
  have hx := BitVec.le_toInt x
  have hx' := BitVec.toInt_lt (x := x)
  have hy := BitVec.le_toInt y
  have hy' := BitVec.toInt_lt (x := y)
  have hsub : x - y = BitVec.ofInt 40 (x.toInt - y.toInt) := by
    rw [ofInt_sub, BitVec.ofInt_toInt, BitVec.ofInt_toInt]
  rw [hsub, BitVec.msb_eq_toInt]
  rcases toInt_ofInt_cases (e := x.toInt - y.toInt) (by omega) (by omega) with
    ⟨hfit, h⟩ | ⟨hfit, hpos, h⟩ | ⟨hfit, hneg, h⟩
  all_goals
    rw [hfit, h]
    simp only [Bool.xor_false, Bool.xor_true, ← decide_not, decide_eq_decide]
    omega

theorem compareMeaning_flags40 (x y : Wide) (f : Status) :
    CompareMeaning x y (flags40 (decide (x.toNat < y.toNat)) (x.toInt - y.toInt) (x - y) f) := by
  have hlt := msb_sub_xor_misfits x y
  have heq : x - y = 0 ↔ x = y := sub_eq_zero
  have hnat : x = y ↔ x.toNat = y.toNat := BitVec.toNat_inj.symm
  have hint : x = y ↔ x.toInt = y.toInt := BitVec.toInt_inj.symm
  simp only [CompareMeaning, holds, flags40, hlt, heq, Bool.not_eq_true', Bool.and_eq_true, Bool.or_eq_true,
    decide_eq_true_eq, decide_eq_false_iff_not]
  refine ⟨trivial, trivial, Nat.not_lt, trivial, ?_, ?_, Int.not_lt, trivial, ?_, ?_⟩
  · rw [hnat]; omega
  · rw [hnat]; omega
  · rw [hint]; omega
  · rw [hint]; omega

/-- Settles O37: the flags a compare leaves (O36) mean the comparison of the two values. -/
theorem conditionsAfterACompare : Obligations.ConditionsAfterACompare := by
  intro d s
  obtain ⟨hcmp, hcmpAcc, hcmpi⟩ := comparesWriteFlagsAlone d s
  refine ⟨fun m src => ?_, fun m => ?_, fun imm => ?_⟩
  · obtain ⟨t, ht, hsr, -⟩ := hcmp m src
    exact ⟨t, ht, hsr ▸ compareMeaning_flags40 _ _ _⟩
  · obtain ⟨t, ht, hsr, -⟩ := hcmpAcc m
    exact ⟨t, ht, hsr ▸ compareMeaning_flags40 _ _ _⟩
  · obtain ⟨t, ht, hsr, -⟩ := hcmpi imm
    exact ⟨t, ht, hsr ▸ compareMeaning_flags40 _ _ _⟩

/-- Settles O27: `CLR` and `TST` write the constant and the tests of all 40 bits. -/
theorem clrAndTst : Obligations.ClrAndTst := fun m _ _ =>
  ⟨evaluateP_accResult rfl rfl m, evaluateP_flagResult rfl m⟩

/-- Settles O30: the four operations are results in the high word, with the flags of that word. -/
theorem logicOnTheHighWord : Obligations.LogicOnTheHighWord := fun m _ _ s =>
  have hflags := fun x => logicFlags_apply x s.sr
  ⟨evaluateP_highResult rfl (hflags _) m, evaluateP_highResult rfl (hflags _) m,
    evaluateP_highResult rfl (hflags _) m, evaluateP_highResult rfl (hflags _) m⟩

/-- Settles O31: the three forms are one write of all 40 bits. -/
theorem transfersIntoAnAccumulator : Obligations.TransfersIntoAnAccumulator := by
  intro m d s
  simp only [exec, execTfrAcc, execTfrData, execTfrAddr, tfrAccHalf_eq, tfrDataHalf_eq, tfrAddrHalf_eq]
  exact ⟨evaluateP_accWrite m d _ s, fun _ => evaluateP_accWrite m d _ s, fun _ => evaluateP_accWrite m d _ s⟩

/-! ## `ABS` and `NEG` (rules R165, R166) -/

theorem eq_min_iff (x : Wide) : x = 0x8000000000 ↔ x.toInt = -2 ^ 39 := by
  rw [← BitVec.toInt_inj]
  exact Iff.rfl

theorem misfits_natAbs (x : Wide) : misfits x.toInt.natAbs = decide (x = 0x8000000000) := by
  have hlo := BitVec.le_toInt x
  have hhi := BitVec.toInt_lt (x := x)
  rw [misfits, Bool.eq_iff_iff]
  simp only [Bool.or_eq_true, decide_eq_true_eq, eq_min_iff]
  omega

theorem misfits_neg (x : Wide) : misfits (-x.toInt) = decide (x = 0x8000000000) := by
  have hlo := BitVec.le_toInt x
  have hhi := BitVec.toInt_lt (x := x)
  rw [misfits, Bool.eq_iff_iff]
  simp only [Bool.or_eq_true, decide_eq_true_eq, eq_min_iff]
  omega

theorem ofInt_neg_toInt (x : Wide) : BitVec.ofInt 40 (-x.toInt) = -x := by
  rw [BitVec.ofInt_neg, BitVec.ofInt_toInt]

theorem ofInt_natAbs (x : Wide) : BitVec.ofInt 40 x.toInt.natAbs = if x.msb then -x else x := by
  rw [BitVec.msb_eq_toInt]
  split
  · next h => rw [Int.ofNat_natAbs_of_nonpos (of_decide_eq_true h).le, ofInt_neg_toInt]
  · next h => rw [Int.natAbs_of_nonneg (not_lt.1 (mt decide_eq_true h)), BitVec.ofInt_toInt]

/-- Settles O28: the exact values are the absolute value and the negation of the signed one; only `2^39` does not
fit. -/
theorem absAndNeg : Obligations.AbsAndNeg := by
  intro m d s
  refine ⟨evaluateP_accResult (ofInt_natAbs (s.acc d)) ?_ m, evaluateP_accResult (ofInt_neg_toInt (s.acc d)) ?_ m⟩
  · rw [signedFlags_apply, flags40, misfits_natAbs, ofInt_natAbs]
  · rw [signedFlagsC_apply, flags40, misfits_neg, ofInt_neg_toInt, bne, beq_eq_decide, ← decide_not]
    simp only [neg_eq_zero, ne_eq]

/-! ## Rounding (rule R168) -/

theorem round_nearestEven (t : Int) : NearestEven t (round t) := by
  have habs : ∀ x : Int, |x| = if x < 0 then -x else x := fun x => by
    split
    · next h => exact abs_of_neg h
    · next h => exact abs_of_nonneg (not_lt.1 h)
  simp only [NearestEven, habs, round]
  omega

theorem lowWord_of_multiple {e : Int} (h : e % 65536 = 0) : (BitVec.ofInt 40 e).extractLsb' 0 16 = 0#16 := by
  apply BitVec.eq_of_toNat_eq
  rw [BitVec.extractLsb'_toNat, BitVec.toNat_ofInt, Nat.shiftRight_zero, BitVec.toNat_ofNat]
  omega

/-- Settles O29: the half rounds the signed value, and a multiple of `2^16` has a zero low word. -/
theorem rndRoundsToNearestEven : Obligations.RndRoundsToNearestEven := by
  intro m d s
  have hround := round_nearestEven (s.acc d).toInt
  obtain ⟨t, ht, hdone⟩ := evaluateP_accResult (d := d) rfl (signedFlags_apply (round (s.acc d).toInt) s.sr) m
  exact ⟨t, _, ht, hround, lowWord_of_multiple hround.1, hdone⟩

/-! ## Shifts of all 40 bits (rules R170, R171) -/

theorem trunc40_double (x : Wide) : trunc40 (x.toNat * 2) = x <<< 1 := by
  apply BitVec.eq_of_toNat_eq
  rw [trunc40, BitVec.toNat_ofInt, BitVec.toNat_shiftLeft, Nat.shiftLeft_eq]
  omega

theorem getElem_39_eq_msb (x : Wide) : x[39] = x.msb := by
  rw [BitVec.msb_eq_getLsbD_last, BitVec.getLsbD_eq_getElem]

/-- Twice the value fits exactly where the two highest bits are equal. -/
theorem misfits_double (x : Wide) : misfits (2 * x.toInt) = (x[39] ^^ x[38]) := by
  have h38 : x[38] = decide (x.toNat / 2 ^ 38 % 2 = 1) := by
    rw [← BitVec.getLsbD_eq_getElem, BitVec.getLsbD, Nat.testBit_eq_decide_div_mod_eq]
  rw [getElem_39_eq_msb, BitVec.msb_eq_decide, h38, misfits, BitVec.toInt_eq_toNat_cond, Bool.eq_iff_iff]
  simp only [Bool.or_eq_true, decide_eq_true_eq, bne_iff_ne, ne_eq, decide_eq_decide]
  omega

theorem asr_eq_sshiftRight (x : Wide) : BitVec.ofBool x[39] ++ x.extractLsb' 1 39 = x.sshiftRight 1 := by
  apply BitVec.eq_of_getLsbD_eq
  intro i hi
  rw [BitVec.getLsbD_append, BitVec.getLsbD_sshiftRight]
  grind

/-- Settles O32: the results are the two shifts by one; `V` of `ASL` is `misfits_double`. -/
theorem arithmeticShifts : Obligations.ArithmeticShifts := by
  intro m d s
  refine ⟨evaluateP_accResult (trunc40_double (s.acc d)) ?_ m,
    evaluateP_accResult (asr_eq_sshiftRight (s.acc d)) ?_ m⟩
  · rw [flags40, misfits_double, trunc40_double, ← getElem_39_eq_msb]
    rfl
  · rw [asr_eq_sshiftRight]
    rfl

/-! ## Shifts and rotates of the high word (rules R172 to R175) -/

theorem rol_eq (x : Word) (c : Bool) :
    x.extractLsb' 0 15 ++ BitVec.ofBool c = x <<< 1 ||| if c then 1 else 0 := by
  apply BitVec.eq_of_getLsbD_eq
  intro i hi
  rw [BitVec.getLsbD_append]
  cases c <;> grind

theorem ror_eq (x : Word) (c : Bool) :
    BitVec.ofBool c ++ x.extractLsb' 1 15 = x >>> 1 ||| if c then 0x8000 else 0 := by
  apply BitVec.eq_of_getLsbD_eq
  intro i hi
  rw [BitVec.getLsbD_append]
  cases c with
  | false => grind
  | true =>
    rw [show (if true = true then (0x8000 : Word) else 0) = BitVec.twoPow 16 15 from rfl]
    grind

theorem lsl_eq (x : Word) : x.extractLsb' 0 15 ++ 0#1 = x <<< 1 :=
  (rol_eq x false).trans BitVec.or_zero

theorem lsr_eq (x : Word) : 0#1 ++ x.extractLsb' 1 15 = x >>> 1 :=
  (ror_eq x false).trans BitVec.or_zero

/-- Settles O33: the four results are shifts by one with the old carry or a zero entering. -/
theorem shiftsAndRotatesOfTheHighWord : Obligations.ShiftsAndRotatesOfTheHighWord := by
  intro m d s
  refine ⟨evaluateP_highResult (lsl_eq _) ?_ m, evaluateP_highResult (lsr_eq _) ?_ m,
    evaluateP_highResult (rol_eq _ s.sr.c) ?_ m, evaluateP_highResult (ror_eq _ s.sr.c) ?_ m⟩
  · rw [shiftFlags_apply, lsl_eq]
  · rw [shiftFlags_apply, lsr_eq]
  · rw [shiftFlags_apply, rol_eq]
  · rw [shiftFlags_apply, ror_eq]

/-! ## Products (rules R200 to R207) -/

theorem pairProduct_eq_fracProduct (k : Sign) (q : Pair) (s : State) : pairProduct k q s = fracProduct k q s := by
  cases k with
  | plus => exact (one_mul _).symm
  | minus => exact (neg_one_mul _).symm

/-- A fractional product of two words is at most `2^31` in size (rule R201). -/
theorem abs_fracProduct_le (k : Sign) (q : Pair) (s : State) : |fracProduct k q s| ≤ 2 ^ 31 := by
  have hword : ∀ v : Word, |v.toInt| ≤ 2 ^ 15 := fun v =>
    abs_le.2 ⟨BitVec.le_toInt v, (BitVec.toInt_lt (x := v)).le⟩
  have hsign : |signInt k| = 1 := by cases k <;> rfl
  rw [fracProduct, abs_mul, abs_mul, abs_mul, hsign, one_mul, mul_assoc]
  calc |(2 : Int)| * (|(s.data (pairFst q)).toInt| * |(s.data (pairSnd q)).toInt|)
      ≤ |(2 : Int)| * (2 ^ 15 * 2 ^ 15) := by gcongr <;> exact hword _
    _ = 2 ^ 31 := by norm_num

/-- Rounding moves a value by at most half a step (rule R168). -/
theorem abs_le_of_nearestEven {t e : Int} (h : NearestEven t e) (ht : |t| ≤ 2 ^ 31) : |e| ≤ 2 ^ 32 := by
  have hstep := h.2.1
  rw [abs_le] at ht ⊢
  have hdist := abs_le.1 (show |e - t| ≤ 32768 by omega)
  omega

theorem toInt_ofInt_of_small {e : Int} (h : |e| ≤ 2 ^ 32) : (BitVec.ofInt 40 e).toInt = e := by
  rw [abs_le] at h
  rw [BitVec.toInt_ofInt]
  exact Int.bmod_eq_of_le (by omega) (by omega)

/-- A value far inside 40 bits fits: its flags are its sign, its zero test and no overflow (rule R186). -/
theorem flags40_of_small {e : Int} (h : |e| ≤ 2 ^ 32) (c : Bool) (f : Status) :
    flags40 c e (BitVec.ofInt 40 e) f = ⟨c, false, decide (e = 0), decide (e < 0), f.se⟩ := by
  have hint := toInt_ofInt_of_small h
  have hfit : misfits e = false := by
    rw [abs_le] at h
    simp only [misfits, Bool.or_eq_false_iff, decide_eq_false_iff_not]
    omega
  have hzero : BitVec.ofInt 40 e = 0 ↔ e = 0 := by
    rw [← BitVec.toInt_inj, hint]
    rfl
  simp only [flags40, hfit, hzero, BitVec.msb_eq_toInt, hint]

/-- The flags of a product, exact or rounded (rule R203). -/
theorem signedFlags_apply_of_small {e : Int} (h : |e| ≤ 2 ^ 32) (f : Status) :
    (signedFlags e).apply f = ⟨f.c, false, decide (e = 0), decide (e < 0), f.se⟩ :=
  (signedFlags_apply e f).trans (flags40_of_small h f.c f)

theorem mpyHalf_eq (k : Sign) (q : Pair) (d : Acc) (s : State) :
    mpyHalf k q d s = mulResult d (fracProduct k q s) := by
  rw [mpyHalf, pairProduct_eq_fracProduct]

theorem mpyrHalf_eq (k : Sign) (q : Pair) (d : Acc) (s : State) :
    mpyrHalf k q d s = mulResult d (round (fracProduct k q s)) := by
  rw [mpyrHalf, pairProduct_eq_fracProduct]

theorem macHalf_eq (k : Sign) (q : Pair) (d : Acc) (s : State) :
    macHalf k q d s = mulResult d ((s.acc d).toInt + fracProduct k q s) := by
  rw [macHalf, pairProduct_eq_fracProduct]

theorem macrHalf_eq (k : Sign) (q : Pair) (d : Acc) (s : State) :
    macrHalf k q d s = mulResult d (round ((s.acc d).toInt + fracProduct k q s)) := by
  rw [macrHalf, pairProduct_eq_fracProduct]

theorem abs_fracProduct_small (k : Sign) (q : Pair) (s : State) : |fracProduct k q s| ≤ 2 ^ 32 :=
  (abs_fracProduct_le k q s).trans (by norm_num)

theorem abs_round_fracProduct_small (k : Sign) (q : Pair) (s : State) : |round (fracProduct k q s)| ≤ 2 ^ 32 :=
  abs_le_of_nearestEven (round_nearestEven _) (abs_fracProduct_le k q s)

theorem evaluateP_mulResult {e : Int} {f : Status} {s : State} (hf : (signedFlags e).apply s.sr = f) (m : PMove)
    (d : Acc) : ∃ t, evaluateP m (mulResult d e) s = .next t ∧ PDone m d (BitVec.ofInt 40 e) f s t :=
  evaluateP_accResult rfl hf m

theorem evaluateD_mulResult {e : Int} {f : Status} {s : State} (hf : (signedFlags e).apply s.sr = f) (m : DMove)
    (d : Acc) : ∃ t, evaluateD m (mulResult d e) s = .next t ∧ DDone m d (BitVec.ofInt 40 e) f s t :=
  evaluateD_accResult rfl hf m

/-- Settles O38: a product is far inside 40 bits, and so is a rounded one. -/
theorem multiplyInFormatP : Obligations.MultiplyInFormatP := by
  intro m k q d s
  have hexact := abs_fracProduct_small k q s
  have hround := abs_round_fracProduct_small k q s
  obtain ⟨t, ht, hdone⟩ := evaluateP_mulResult (signedFlags_apply_of_small hexact s.sr) m d
  obtain ⟨t', ht', hdone'⟩ := evaluateP_mulResult (signedFlags_apply_of_small hround s.sr) m d
  simp only [exec, execMpy, execMpyr, mpyHalf_eq, mpyrHalf_eq]
  exact ⟨⟨t, ht, toInt_ofInt_of_small hexact, hdone⟩,
    t', _, ht', round_nearestEven _, toInt_ofInt_of_small hround, hdone'⟩

/-- Settles O39: the exact sum, and the exact sum rounded once, go into the same result. -/
theorem accumulateInFormatP : Obligations.AccumulateInFormatP := by
  intro m k q d s
  obtain ⟨t, ht, hdone⟩ := evaluateP_mulResult
    (signedFlags_apply (round ((s.acc d).toInt + fracProduct k q s)) s.sr) m d
  simp only [exec, execMac, execMacr, macHalf_eq, macrHalf_eq]
  exact ⟨evaluateP_mulResult (signedFlags_apply _ s.sr) m d, t, _, ht, round_nearestEven _, hdone⟩

/-- Settles O40: the four results of format P, with the frame of a dual move. -/
theorem multiplyInFormatD : Obligations.MultiplyInFormatD := by
  intro k q d s p
  have hexact : (signedFlags p).apply s.sr = _ := signedFlags_apply_of_small (abs_fracProduct_small _ _ s) s.sr
  have hround : (signedFlags (round p)).apply s.sr = _ :=
    signedFlags_apply_of_small (abs_round_fracProduct_small _ _ s) s.sr
  simp only [exec, execDualread, execDualreg, execMpyrD, execMacD, execMacrD, mpyHalf_eq, mpyrHalf_eq, macHalf_eq,
    macrHalf_eq]
  refine ⟨fun _ _ _ _ _ => evaluateD_mulResult hexact _ d, fun _ _ _ _ => evaluateD_mulResult hexact _ d,
    fun m => ?_, fun m => ?_, fun m => ?_⟩
  · obtain ⟨t, ht, hdone⟩ := evaluateD_mulResult hround m d
    exact ⟨t, _, ht, round_nearestEven p, hdone⟩
  · obtain ⟨t, ht, hdone⟩ := evaluateD_mulResult (signedFlags_apply ((s.acc d).toInt + p) s.sr) m d
    exact ⟨t, _, ht, rfl, hdone⟩
  · obtain ⟨t, ht, hdone⟩ := evaluateD_mulResult (signedFlags_apply (round ((s.acc d).toInt + p)) s.sr) m d
    exact ⟨t, _, ht, round_nearestEven _, hdone⟩

end Sys2Proof.Machine
end

section
/-! PROOFS. The opcodes of format N on registers and memory words: moves, loads and stores, bit instructions, `SR` as
a word, branches and jumps (O41 to O48, O50, O51). -/

namespace Sys2Proof.Machine

/-! ## Moves between registers (O45) -/

/-- Settles O45: one write through the register port. -/
theorem moveBetweenRegisters : Obligations.MoveBetweenRegisters := by
  intro src dst s
  have hframed : (moveRegHalf src dst s).Framed [home dst] [] :=
    Half.framed_of_one rfl (fun _ => rfl) fun _ => List.mem_singleton_self _
  obtain ⟨t, p, ht, hframe, rfl⟩ := evaluateN_done (s := s) hframed rfl 1
  exact ⟨_, ht, (setReg16_portHolds dst (s.reg16 src) s).congr (fun _ => rfl) (setPc_full _ dst p), hframe⟩

/-! ## Loads and stores (O46, O47) -/

/-- The registers a resolution updates (rule R121). -/
def updateRegs (mode : AddrMode) (s : State) : List Reg := (updateList (resolve mode s)).map fun u => addrName u.reg

theorem updateRegs_addrModeOf (mode : Mode) (n : AddrReg) (s : State) :
    updateRegs (addrModeOf mode n) s = modeUpdates mode n := (modeUpdates_eq mode n s).symm

theorem loadHalf_framed (dst : Reg) (mode : AddrMode) (s : State) :
    (loadHalf dst mode s).Framed (home dst :: updateRegs mode s) [] := by
  refine ⟨fun u hu => ?_, fun ans w hw => ?_⟩
  · rw [loadHalf_updates] at hu
    exact List.mem_cons_of_mem _ (List.mem_map_of_mem hu)
  · obtain ⟨v, hv⟩ := loadHalf_writes dst mode s
    rw [hv, List.mem_singleton] at hw
    subst hw
    exact List.mem_cons_self

theorem storeHalf_framed {mode : AddrMode} {s : State} {ea : Word} (h : (resolve mode s).ea = some ea) (src : Reg) :
    (storeHalf src mode s).Framed (updateRegs mode s) [ea] := by
  refine ⟨fun u hu => List.mem_map_of_mem hu, fun ans w hw => ?_⟩
  simp only [storeHalf, h, Option.toList_some, List.map_cons, List.map_nil, List.mem_singleton] at hw
  subst hw
  exact List.mem_singleton_self ea

/-- A load puts `v`, the word read or the immediate, into its destination, after the update of its address register
(rules R126, R221). -/
theorem evaluateN_loadHalf {dst : Reg} {mode : AddrMode} {s : State} {v : Word}
    (hv : (loadHalf dst mode s).writes ((loadHalf dst mode s).reads.map s.memRead) = [.reg dst v]) (size : Nat) :
    ∃ t, evaluateN size (loadHalf dst mode s) s = .next t ∧ PortHolds dst v s t ∧
      (∀ n, dst ≠ addrName n → t.addr n = (applyUpdates (updateList (resolve mode s)) s).addr n) ∧
      FrameNext size (home dst :: updateRegs mode s) [] s t := by
  obtain ⟨t, p, ht, hframe, rfl⟩ := evaluateN_done (loadHalf_framed dst mode s) (loadHalf_target dst mode s) size
  rw [hv, loadHalf_updates] at *
  refine ⟨_, ht, (setReg16_portHolds dst v _).congr (applyUpdates_acc _ s) (setPc_full _ dst p), fun n hn => ?_,
    hframe⟩
  rw [setPc_addr, applyWrites_cons, applyWrites_nil, Write.apply, setReg16_addr, if_neg hn]

/-- A store puts the pre-state register into the word at the effective address (rules R126, R222). -/
theorem evaluateN_storeHalf {mode : AddrMode} {s : State} {ea : Word} (h : (resolve mode s).ea = some ea) (src : Reg)
    (size : Nat) :
    ∃ t, evaluateN size (storeHalf src mode s) s = .next t ∧ t.memRead ea = s.reg16 src ∧
      (∀ n, t.addr n = (applyUpdates (updateList (resolve mode s)) s).addr n) ∧
      FrameNext size (updateRegs mode s) [ea] s t := by
  obtain ⟨t, p, ht, hframe, rfl⟩ := evaluateN_done (storeHalf_framed h src) rfl size
  have hw : ∀ ans, (storeHalf src mode s).writes ans = [.mem ea (s.reg16 src)] := fun ans => by
    simp [storeHalf, h]
  rw [hw] at *
  exact ⟨_, ht, memRead_memWrite_self _ ea _, fun n => rfl, hframe⟩

theorem addrModeOf_ea (mode : Mode) (rn : AddrReg) (s : State) :
    ∃ ea, (resolve (addrModeOf mode rn) s).ea = some ea := by
  cases mode <;> exact ⟨_, rfl⟩

theorem loadHalf_writes_of_ea {mode : AddrMode} {s : State} {ea : Word} (h : (resolve mode s).ea = some ea)
    (dst : Reg) :
    (loadHalf dst mode s).writes ((loadHalf dst mode s).reads.map s.memRead) = [.reg dst (s.memRead ea)] := by
  cases mode with
  | immediate => cases h
  | _ =>
    obtain rfl := Option.some.inj h
    rfl

/-- Settles O46: the four forms are one load, with the updates and the word of their mode. -/
theorem loadsIntoARegister : Obligations.LoadsIntoARegister := by
  intro dst s
  refine ⟨fun mode rn => ?_, fun rn disp => ?_, fun addr => ?_, fun imm => ?_⟩
  · obtain ⟨ea, hea⟩ := addrModeOf_ea mode rn s
    obtain ⟨t, ht, hport, haddr, hframe⟩ := evaluateN_loadHalf (loadHalf_writes_of_ea hea dst) 1
    rw [updateRegs_addrModeOf] at hframe
    exact ⟨t, ea, ht, hea, hport, fun hn => (haddr rn hn).trans (applyUpdates_mode_self mode rn rfl), hframe⟩
  · obtain ⟨t, ht, hport, -, hframe⟩ :=
      evaluateN_loadHalf (loadHalf_writes_of_ea (mode := .displaced rn disp) (s := s) rfl dst) 2
    exact ⟨t, ht, hport, hframe⟩
  · obtain ⟨t, ht, hport, -, hframe⟩ :=
      evaluateN_loadHalf (loadHalf_writes_of_ea (mode := .absolute addr) (s := s) rfl dst) 2
    exact ⟨t, ht, hport, hframe⟩
  · obtain ⟨t, ht, hport, -, hframe⟩ := evaluateN_loadHalf (dst := dst) (mode := .immediate imm) (s := s) rfl 2
    exact ⟨t, ht, hport, hframe⟩

/-- Settles O47: the three forms are one store, with the updates and the address of their mode. -/
theorem storesFromARegister : Obligations.StoresFromARegister := by
  intro src s
  refine ⟨fun mode rn => ?_, fun rn disp => ?_, fun addr => ?_⟩
  · obtain ⟨ea, hea⟩ := addrModeOf_ea mode rn s
    obtain ⟨t, ht, hmem, haddr, hframe⟩ := evaluateN_storeHalf hea src 1
    rw [updateRegs_addrModeOf] at hframe
    exact ⟨t, ea, ht, hea, hmem, (haddr rn).trans (applyUpdates_mode_self mode rn rfl), hframe⟩
  · obtain ⟨t, ht, hmem, -, hframe⟩ := evaluateN_storeHalf (mode := .displaced rn disp) (s := s) rfl src 2
    exact ⟨t, _, ht, rfl, hmem, hframe⟩
  · obtain ⟨t, ht, hmem, -, hframe⟩ := evaluateN_storeHalf (mode := .absolute addr) (s := s) rfl src 2
    exact ⟨t, _, ht, rfl, hmem, hframe⟩

/-! ## Bit instructions (O41 to O44) -/

theorem bitRegHalf_framed (f : Word → Word) (bit : BitVec 4) (r : Reg) (s : State) :
    (bitRegHalf f bit r s).Framed [home r, .sr] [] :=
  Half.framed_of_two nofun (fun _ => rfl) (fun _ => by simp [Write.Framed]) fun _ => by simp [Write.Framed]

theorem bitMemHalf_framed (f : Word → Word) (bit : BitVec 4) (rn : AddrReg) (s : State) :
    (bitMemHalf f bit rn s).Framed [.sr] [s.addr rn] :=
  Half.framed_of_two nofun (fun _ => rfl) (fun _ => by simp [Write.Framed]) fun _ => by simp [Write.Framed]

theorem btstMemHalf_framed (bit : BitVec 4) (rn : AddrReg) (s : State) : (btstMemHalf bit rn s).Framed [.sr] [] :=
  Half.framed_of_one rfl (fun _ => rfl) fun _ => List.mem_singleton_self _

/-- Settles O41: `BTST` has one write, the flag. -/
theorem bitTest : Obligations.BitTest := by
  intro bit s
  refine ⟨fun r _ => evaluateN_flagResult rfl 1, fun rn => ?_⟩
  obtain ⟨t, p, ht, hframe, rfl⟩ := evaluateN_done (btstMemHalf_framed bit rn s) rfl 1
  exact ⟨_, ht, rfl, hframe⟩

/-- A bit instruction on a register that is no whole accumulator and not `SR` (rule R211). -/
theorem evaluateN_bitRegHalf {r : Reg} (hr : r.isBitOperand = true) (f : Word → Word) (bit : BitVec 4) (s : State) :
    ∃ t, evaluateN 1 (bitRegHalf f bit r s) s = .next t ∧ PortHolds r (f (s.reg16 r)) s t ∧
      t.sr = { s.sr with c := (s.reg16 r).getLsbD bit.toNat } ∧ FrameNext 1 [home r, .sr] [] s t := by
  have hsr : r ≠ .sr := by
    rintro rfl
    cases hr
  obtain ⟨t, p, ht, hframe, rfl⟩ := evaluateN_done (bitRegHalf_framed f bit r s) rfl 1
  have hkept : (s.setReg16 r (f (s.reg16 r))).sr = s.sr := (setReg16_sr s r _).trans (if_neg hsr)
  refine ⟨_, ht, (setReg16_portHolds r _ s).congr (fun _ => rfl) ?_, ?_, hframe⟩
  · exact (setPc_full _ r p).trans (setSr_full _ r _ (mt (home_eq_sr_iff r).1 hsr))
  · exact congrArg (FlagUpdate.apply (bitFlag bit (s.reg16 r))) hkept

/-- A bit instruction on a memory word (rule R211). -/
theorem evaluateN_bitMemHalf (f : Word → Word) (bit : BitVec 4) (rn : AddrReg) (s : State) :
    ∃ t, evaluateN 1 (bitMemHalf f bit rn s) s = .next t ∧
      t.memRead (s.addr rn) = f (s.memRead (s.addr rn)) ∧
      t.sr = { s.sr with c := (s.memRead (s.addr rn)).getLsbD bit.toNat } ∧
      FrameNext 1 [.sr] [s.addr rn] s t := by
  obtain ⟨t, p, ht, hframe, rfl⟩ := evaluateN_done (bitMemHalf_framed f bit rn s) rfl 1
  exact ⟨_, ht, memRead_memWrite_self s (s.addr rn) _, rfl, hframe⟩

/-- Settles O42: the three instructions are one bit instruction with another change of the word. -/
theorem bitChangeInARegister : Obligations.BitChangeInARegister := fun bit _ s hr =>
  ⟨evaluateN_bitRegHalf hr (setBit bit) bit s, evaluateN_bitRegHalf hr (clearBit bit) bit s,
    evaluateN_bitRegHalf hr (changeBit bit) bit s⟩

/-- Settles O43: as O42, on a memory word. -/
theorem bitChangeInMemory : Obligations.BitChangeInMemory := fun bit rn s =>
  ⟨evaluateN_bitMemHalf (setBit bit) bit rn s, evaluateN_bitMemHalf (clearBit bit) bit rn s,
    evaluateN_bitMemHalf (changeBit bit) bit rn s⟩

/-! ## The extensions (O44) -/

theorem signExtend_high_bit (x : Byte) {k : Nat} (hlo : 8 ≤ k) (hhi : k < 16) :
    (x.signExtend 16).getLsbD k = x.msb := by
  rw [BitVec.getLsbD_signExtend]
  simp [hhi, Nat.not_lt.2 hlo]

theorem extPart_msb (acc : Wide) : (extPart acc).msb = acc.msb := by
  simp [extPart, BitVec.msb_eq_getLsbD_last]

theorem low_signExtend (x : Byte) : (x.signExtend 16).extractLsb' 0 8 = x := by
  apply BitVec.eq_of_getLsbD_eq
  intro i hi
  rw [BitVec.getLsbD_extractLsb', BitVec.getLsbD_signExtend]
  simp [hi, show i < 16 by omega]

theorem withExt_extPart (acc : Wide) : withExt acc (extPart acc) = acc := by
  apply BitVec.eq_of_getLsbD_eq
  intro i hi
  rw [withExt, BitVec.getLsbD_append, BitVec.getLsbD_append]
  simp only [extPart, highPart, lowPart]
  grind

/-- A change of one of the bits 8 to 15 keeps the low byte. -/
theorem low_bitMask {bit : BitVec 4} (h : 8 ≤ bit.toNat) : (bitMask bit).extractLsb' 0 8 = 0#8 := by
  revert bit
  decide

theorem low_setBit {bit : BitVec 4} (h : 8 ≤ bit.toNat) (v : Word) :
    (setBit bit v).extractLsb' 0 8 = v.extractLsb' 0 8 := by
  rw [setBit, BitVec.extractLsb'_or, low_bitMask h, BitVec.or_zero]

theorem low_changeBit {bit : BitVec 4} (h : 8 ≤ bit.toNat) (v : Word) :
    (changeBit bit v).extractLsb' 0 8 = v.extractLsb' 0 8 := by
  rw [changeBit, BitVec.extractLsb'_xor, low_bitMask h, BitVec.xor_zero]

theorem low_clearBit {bit : BitVec 4} (h : 8 ≤ bit.toNat) (v : Word) :
    (clearBit bit v).extractLsb' 0 8 = v.extractLsb' 0 8 := by
  rw [clearBit, BitVec.extractLsb'_and, BitVec.extractLsb'_not_of_lt (by decide), low_bitMask h]
  exact BitVec.and_allOnes

/-- A change of the word that keeps its low byte changes no extension (rules R23, R37, R38). -/
theorem setReg16_ext_self (s : State) {f : Word → Word}
    (hf : ∀ v, (f v).extractLsb' 0 8 = v.extractLsb' 0 8) :
    s.setReg16 .a2 (f (s.reg16 .a2)) = s ∧ s.setReg16 .b2 (f (s.reg16 .b2)) = s := by
  simp only [State.setReg16, State.reg16, State.setAcc, hf, low_signExtend, withExt_extPart, and_self]

/-- The sign of the extension is the bit that is read (rule R212). -/
theorem bitFlag_ext {bit : BitVec 4} (h : 8 ≤ bit.toNat) (acc : Wide) :
    bitFlag bit ((extPart acc).signExtend 16) = { c := some acc.msb } := by
  rw [bitFlag, signExtend_high_bit _ h bit.isLt, extPart_msb]

theorem evaluateN_bitRegHalf_ext {bit : BitVec 4} (h : 8 ≤ bit.toNat) {f : Word → Word}
    (hf : ∀ v, (f v).extractLsb' 0 8 = v.extractLsb' 0 8) (s : State) :
    evaluateN 1 (bitRegHalf f bit .a2 s) s = .next { s with sr := { s.sr with c := s.a.msb }, pc := s.pc + 1 } ∧
      evaluateN 1 (bitRegHalf f bit .b2 s) s = .next { s with sr := { s.sr with c := s.b.msb }, pc := s.pc + 1 } := by
  obtain ⟨ha, hb⟩ := setReg16_ext_self s hf
  have hregs : ∀ r, evaluateN 1 (bitRegHalf f bit r s) s =
      .next (((Write.flags (bitFlag bit (s.reg16 r))).apply (s.setReg16 r (f (s.reg16 r)))).setPc (s.pc + 1)) :=
    fun _ => rfl
  rw [hregs, hregs, ha, hb, State.reg16, State.reg16, bitFlag_ext h, bitFlag_ext h]
  exact ⟨rfl, rfl⟩

theorem evaluateN_btstRegHalf_ext {bit : BitVec 4} (h : 8 ≤ bit.toNat) (s : State) :
    evaluateN 1 (btstRegHalf bit .a2 s) s = .next { s with sr := { s.sr with c := s.a.msb }, pc := s.pc + 1 } ∧
      evaluateN 1 (btstRegHalf bit .b2 s) s = .next { s with sr := { s.sr with c := s.b.msb }, pc := s.pc + 1 } := by
  rw [btstRegHalf, btstRegHalf, State.reg16, State.reg16, bitFlag_ext h, bitFlag_ext h]
  exact ⟨rfl, rfl⟩

/-- Settles O44: the changed bits are not in the low byte, which is what the port writes into an extension. -/
theorem highBitsOfAnExtension : Obligations.HighBitsOfAnExtension := by
  intro bit s h
  have hbtst := evaluateN_btstRegHalf_ext h s
  have hbset := evaluateN_bitRegHalf_ext h (low_setBit h) s
  have hbclr := evaluateN_bitRegHalf_ext h (low_clearBit h) s
  have hbchg := evaluateN_bitRegHalf_ext h (low_changeBit h) s
  simp only [List.forall_mem_cons, List.not_mem_nil, false_implies, implies_true, and_true]
  exact ⟨⟨hbtst.1, hbset.1, hbclr.1, hbchg.1⟩, hbtst.2, hbset.2, hbclr.2, hbchg.2⟩

/-! ## The status immediates (O50) -/

theorem Status.toWord_bits (f : Status) :
    f.toWord[0] = f.c ∧ f.toWord[1] = f.v ∧ f.toWord[2] = f.z ∧ f.toWord[3] = f.n ∧ f.toWord[4] = f.se := by
  have h := Status.ofWord_toWord f
  rw [ofWord_eq_bits] at h
  exact ⟨congrArg Status.c h, congrArg Status.v h, congrArg Status.z h, congrArg Status.n h, congrArg Status.se h⟩

theorem getElem_highMask : ∀ (k : Nat) (_ : k < 8), (0xFF00 : Word)[k] = false := by decide

/-- The mask of `ANDC` has the immediate in its low byte (rule R229). -/
theorem andc_mask_bit (i : BitVec 8) {k : Nat} (hk : k < 8) :
    (0xFF00 ||| i.setWidth 16 : Word)[k] = i[k] := by
  rw [BitVec.getElem_or, getElem_highMask k hk, Bool.false_or, BitVec.getElem_setWidth, BitVec.getLsbD_eq_getElem hk]

theorem andc_sr (f : Status) (i : BitVec 8) :
    Status.ofWord (f.toWord &&& (0xFF00 ||| i.setWidth 16)) =
      ⟨f.c && i[0], f.v && i[1], f.z && i[2], f.n && i[3], f.se && i[4]⟩ := by
  obtain ⟨hc, hv, hz, hn, hse⟩ := f.toWord_bits
  simp only [ofWord_eq_bits, BitVec.getElem_and, andc_mask_bit i (show 0 < 8 by decide),
    andc_mask_bit i (show 1 < 8 by decide), andc_mask_bit i (show 2 < 8 by decide),
    andc_mask_bit i (show 3 < 8 by decide), andc_mask_bit i (show 4 < 8 by decide), hc, hv, hz, hn, hse]

theorem orc_sr (f : Status) (i : BitVec 8) :
    Status.ofWord (f.toWord ||| i.setWidth 16) =
      ⟨f.c || i[0], f.v || i[1], f.z || i[2], f.n || i[3], f.se || i[4]⟩ := by
  obtain ⟨hc, hv, hz, hn, hse⟩ := f.toWord_bits
  simp only [ofWord_eq_bits, BitVec.getElem_or, BitVec.getElem_setWidth, hc, hv, hz, hn, hse]
  rfl

/-- The half of a write of `SR` as a word (rules R229, R230). -/
def srWrite (v : Word) : Half := { writes := fun _ => [.reg .sr v] }

theorem andcHalf_eq (imm : BitVec 8) (s : State) :
    andcHalf imm s = srWrite (s.sr.toWord &&& (0xFF00 ||| imm.setWidth 16)) := rfl

theorem orcHalf_eq (imm : BitVec 8) (s : State) : orcHalf imm s = srWrite (s.sr.toWord ||| imm.setWidth 16) := rfl

theorem evaluateN_srWrite (v : Word) (s : State) :
    ∃ t, evaluateN 1 (srWrite v) s = .next t ∧ t.sr = Status.ofWord v ∧ FrameNext 1 [.sr] [] s t := by
  have hframed : (srWrite v).Framed [.sr] [] :=
    Half.framed_of_one rfl (fun _ => rfl) fun _ => List.mem_singleton_self _
  obtain ⟨t, p, ht, hframe, rfl⟩ := evaluateN_done (s := s) hframed rfl 1
  exact ⟨_, ht, rfl, hframe⟩

/-- Settles O50: the word written to `SR`, bit by bit. -/
theorem statusImmediate : Obligations.StatusImmediate := by
  intro i s
  simp only [exec, execAndc, execOrc, andcHalf_eq, orcHalf_eq, ← andc_sr, ← orc_sr]
  exact ⟨evaluateN_srWrite _ s, evaluateN_srWrite _ s⟩

theorem branch_short (pc : Word) (e : BitVec 6) :
    pc + 1 + e.signExtend 16 = BitVec.ofInt 16 (pc.toNat + 1 + e.toInt) := by
  rw [BitVec.ofInt_add, BitVec.ofInt_add, BitVec.ofInt_natCast, BitVec.ofNat_toNat, BitVec.setWidth_eq]
  rfl

theorem branch_long (pc e : Word) : pc + 2 + e = BitVec.ofInt 16 (pc.toNat + 2 + e.toInt) := by
  rw [BitVec.ofInt_add, BitVec.ofInt_add, BitVec.ofInt_natCast, BitVec.ofNat_toNat, BitVec.setWidth_eq,
    BitVec.ofInt_toInt]
  rfl

theorem evaluateN_transferHalf (size : Nat) (taken : Bool) (target : Word) (s : State) :
    evaluateN size (transferHalf taken target) s =
      .next (s.setPc (if taken then target else s.pc + BitVec.ofNat 16 size)) := by
  cases taken <;> rfl

/-- Settles O51: the four forms are one transfer, with their sizes and targets. -/
theorem branchesAndJumps : Obligations.BranchesAndJumps := fun c s =>
  ⟨fun e => branch_short s.pc e ▸ evaluateN_transferHalf 1 (holds c s.sr) _ s,
    fun e => branch_long s.pc e ▸ evaluateN_transferHalf 2 (holds c s.sr) _ s,
    fun target => evaluateN_transferHalf 2 (holds c s.sr) target s,
    fun rn => evaluateN_transferHalf 1 (holds c s.sr) (s.addr rn) s⟩

/-- Settles O48: each sum of the resolver is one modulo `2^16`. -/
theorem addressingModes : Obligations.AddressingModes := by
  intro rn s
  have hinc : (s.addr rn + 1).toNat = ((s.addr rn).toNat + 1) % 65536 := BitVec.toNat_add _ _
  have hdec : (s.addr rn - 1).toNat = ((s.addr rn).toNat + 65535) % 65536 := by
    rw [BitVec.toNat_sub, Nat.add_comm]
    rfl
  have hadd : (s.addr rn + s.offset rn).toNat = ((s.addr rn).toNat + (s.offset rn).toNat) % 65536 :=
    BitVec.toNat_add _ _
  refine ⟨fun mode => ?_, fun disp => ?_, fun _ => rfl, fun _ => rfl⟩
  · cases mode with
    | indirect => exact ⟨rfl, rfl⟩
    | postInc => exact ⟨rfl, congrArg (fun k => some (rn, k)) hinc⟩
    | postDec => exact ⟨rfl, congrArg (fun k => some (rn, k)) hdec⟩
    | postAdd => exact ⟨rfl, congrArg (fun k => some (rn, k)) hadd⟩
    | preDec => exact ⟨congrArg some hdec, congrArg (fun k => some (rn, k)) hdec⟩
    | indexed => exact ⟨congrArg some hadd, rfl⟩
  · rw [resolve, BitVec.ofNat_add, BitVec.ofNat_toNat, BitVec.ofNat_toNat, BitVec.setWidth_eq, BitVec.setWidth_eq]

end Sys2Proof.Machine
end

section
/-! PROOFS. The machine as a whole: the invariant, reset and the condition table, limiting, and the loops that `DO`
opens (O12, O13, O52, O53, O55, O56, O58). -/

namespace Sys2Proof.Machine

/-! ## The invariant (O12, O13) -/

theorem State.Inv.setAddr (r : AddrReg) (v : Word) (s : State) (h : s.Inv) : (s.setAddr r v).Inv := by
  cases r <;> exact h

theorem State.Inv.apply (w : Write) (s : State) (h : s.Inv) : (w.apply s).Inv := by
  obtain ⟨hlsp, hx, hp⟩ := h
  exact ⟨w.apply_lsp_le s hlsp, w.apply_xmem_wf s hx, (w.apply_pmem s).symm ▸ hp⟩

theorem exec_keeps_inv {i : Instr} {s t : State} (hs : s.Inv) (h : exec i s = .next t) : t.Inv := by
  rw [exec_eq_evaluateOpcode] at h
  cases h
  exact evaluateWith_keeps State.Inv.setAddr State.Inv.apply (fun _ _ h => h) _ _ _ _ _ s hs

/-- Settles O13: a step that goes on is the meaning of an opcode, and every update and every write keeps the
invariant. -/
theorem stepKeepsTheInvariant : Obligations.StepKeepsTheInvariant := by
  intro s t hs h
  rcases step_cases s with ⟨i, -, hi⟩ | ⟨e, -, he⟩
  · exact exec_keeps_inv hs (hi ▸ h)
  · rw [he] at h
    cases h

/-- Settles O12: the stack of the reset state is empty, and its spaces list nothing. -/
theorem resetHasTheInvariant : Obligations.ResetHasTheInvariant := ⟨Nat.zero_le 8, reset_xmem_wf, reset_pmem_wf⟩

/-- Settles O58: both are the values of the fields. -/
theorem resetInPlace : Obligations.ResetInPlace := fun _ => ⟨rfl, rfl⟩

/-- Settles O52: a finite table. -/
theorem conditionTable : Obligations.ConditionTable := by
  unfold Obligations.ConditionTable
  decide

/-! ## Limiting (O56) -/

/-- The bits 39 to 31 as a number. -/
theorem toNat_topBits (acc : Wide) : (acc.extractLsb' 31 9).toNat = acc.toNat / 2 ^ 31 := by
  rw [BitVec.extractLsb'_toNat, Nat.shiftRight_eq_div_pow]
  omega

/-- The bits 39 to 31 are all equal exactly for the values that fit 32 bits. -/
theorem topBits_equal_iff (acc : Wide) :
    (acc.extractLsb' 31 9 = 0#9 ∨ acc.extractLsb' 31 9 = 0x1FF#9) ↔
      -0x80000000 ≤ acc.toInt ∧ acc.toInt ≤ 0x7FFFFFFF := by
  have hlt := acc.isLt
  rw [← BitVec.toNat_inj, ← BitVec.toNat_inj, toNat_topBits, BitVec.toInt_eq_toNat_cond,
    show (0#9).toNat = 0 from rfl, show (0x1FF#9).toNat = 511 from rfl]
  omega

/-- Settles O56: the two readings split the values at the same two places. -/
theorem limitIsSaturation : Obligations.LimitIsSaturation := by
  intro acc
  refine ⟨rfl, ?_⟩
  simp only [limit, topBits_equal_iff, BitVec.msb_eq_toInt, decide_eq_true_eq]
  by_cases hhi : acc.toInt > 0x7FFFFFFF
  · rw [if_pos hhi, if_neg (by omega), if_neg (by omega)]
  · by_cases hlo : acc.toInt < -0x80000000
    · rw [if_neg hhi, if_pos hlo, if_neg (by omega), if_pos (by omega)]
    · rw [if_neg hhi, if_neg hlo, if_pos (by omega)]

/-! ## `DO` (O53, O55) -/

/-- The state after `DO`, but for `pc`: the new loop's registers, and the old pair pushed (rules R246, R247). -/
def doState (count : Word) (s : State) : State := ((s.setLa (s.pc + 1)).setLc count).pushLoop s.la s.lc

theorem evaluateN_doHalf (count : Word) (s : State) :
    evaluateN 1 (doHalf count s) s = .next ((doState count s).setPc (s.pc + 1)) := rfl

/-- `push_loop` keeps everything but the loop stack and `SR` (rule R34). -/
theorem pushLoop_la_lc (s : State) (la lc : Word) :
    (s.pushLoop la lc).la = s.la ∧ (s.pushLoop la lc).lc = s.lc := by
  rcases pushLoop_cases s la lc with ⟨-, e⟩ | ⟨-, e⟩ <;> simp [e]

theorem pushLoop_pushed (s : State) (la lc : Word) : Pushed la lc s (s.pushLoop la lc) := by
  rcases pushLoop_cases s la lc with ⟨hroom, e⟩ | ⟨hfull, e⟩
  · rw [e, Pushed, Nat.min_eq_left (Nat.le_of_lt_succ hroom)]
    exact ⟨fun j hj => LoopStack.get_set s.ls s.lsp j _ hroom hj, fun _ => ⟨rfl, rfl⟩,
      fun h => absurd hroom (Nat.not_lt.2 h)⟩
  · rw [e, Pushed, Nat.min_eq_right (by omega)]
    exact ⟨fun j hj => LoopStack.get_set s.ls 7 j _ (by decide) hj, fun h => absurd h (Nat.not_lt.2 hfull),
      fun _ => ⟨rfl, rfl⟩⟩

/-- What `DO` has done (rules R34, R246, R247). -/
theorem doState_done (count : Word) (s : State) :
    Pushed s.la s.lc s ((doState count s).setPc (s.pc + 1)) ∧
      ((doState count s).setPc (s.pc + 1)).la = s.pc + 1 ∧ ((doState count s).setPc (s.pc + 1)).lc = count ∧
      ((doState count s).setPc (s.pc + 1)).pc = s.pc + 1 ∧ LoopFrame s ((doState count s).setPc (s.pc + 1)) := by
  have hpushed : Pushed s.la s.lc s (doState count s) := pushLoop_pushed ((s.setLa (s.pc + 1)).setLc count) s.la s.lc
  obtain ⟨hla, hlc⟩ := pushLoop_la_lc ((s.setLa (s.pc + 1)).setLc count) s.la s.lc
  have hregs : RegsKept [.la, .lc, .sr] s (doState count s) :=
    applyWrites_regsKept [.reg .la (s.pc + 1), .reg .lc count, .push s.la s.lc] s
  exact ⟨hpushed, hla, hlc, rfl, hregs.setPc _, pushLoop_pmem _ _ _, MemKept.of_xmem_eq (pushLoop_xmem _ _ _)⟩

/-- Settles O53: both forms are one `DO`, with their counts. -/
theorem doOpensALoop : Obligations.DoOpensALoop := fun s =>
  ⟨fun i => ⟨_, evaluateN_doHalf (i.setWidth 16) s, doState_done _ s⟩,
    fun src => ⟨_, evaluateN_doHalf (s.reg16 src) s, doState_done _ s⟩⟩

/-- With room on the stack, a pop after `DO` gives back everything but the entry that was pushed. -/
theorem popLoop_doState {s : State} (h : s.lsp < 8) (count p : Word) :
    ((doState count s).setPc p).popLoop = (s.setLoop (s.ls.set s.lsp ⟨s.la, s.lc⟩) s.lsp).setPc p := by
  have hget : (s.ls.set s.lsp ⟨s.la, s.lc⟩).get s.lsp = ⟨s.la, s.lc⟩ :=
    (LoopStack.get_set s.ls s.lsp s.lsp _ h h).trans (if_pos rfl)
  have hpush : doState count s =
      ((s.setLa (s.pc + 1)).setLc count).setLoop (s.ls.set s.lsp ⟨s.la, s.lc⟩) (s.lsp + 1) :=
    if_pos h
  rcases popLoop_cases ((doState count s).setPc p) with ⟨h0, -⟩ | ⟨-, e⟩
  · rw [setPc_lsp, hpush, setLoop_lsp] at h0
    exact absurd h0 (Nat.succ_ne_zero _)
  · rw [e, hpush]
    simp only [setPc_ls, setPc_lsp, setLoop_ls, setLoop_lsp, Nat.add_sub_cancel, hget]
    simp only [State.setLoop, State.setLa, State.setLc, State.setPc]

theorem doThenEnddo {s : State} (h : s.lsp < 8) (count : Word) :
    ∃ u, exec .enddo ((doState count s).setPc (s.pc + 1)) = .next u ∧
      u.la = s.la ∧ u.lc = s.lc ∧ u.lsp = s.lsp ∧ u.sr = s.sr ∧ u.pc = s.pc + 2 ∧
      RegsKept [] s u ∧ u.xmem = s.xmem ∧ u.pmem = s.pmem ∧ ∀ j < 8, j ≠ s.lsp → u.ls.get j = s.ls.get j := by
  refine ⟨_, exec_enddo _, ?_⟩
  rw [popLoop_doState h, setPc_pc, BitVec.add_assoc]
  have hregs : RegsKept [] s (s.setLoop (s.ls.set s.lsp ⟨s.la, s.lc⟩) s.lsp) := fun r _ => setLoop_full s r _ _
  exact ⟨rfl, rfl, rfl, rfl, rfl, (hregs.setPc _).setPc _, rfl, rfl, fun j hj hne =>
    (LoopStack.get_set s.ls s.lsp j _ h hj).trans (if_neg hne)⟩

/-- Settles O55: `ENDDO` pops what `DO` pushed. -/
theorem doThenEnddoRestores : Obligations.DoThenEnddoRestores := by
  rintro i s (⟨count, rfl⟩ | ⟨src, rfl⟩) h
  · obtain ⟨u, hu⟩ := doThenEnddo h (count.setWidth 16)
    exact ⟨_, u, evaluateN_doHalf _ s, hu⟩
  · obtain ⟨u, hu⟩ := doThenEnddo h (s.reg16 src)
    exact ⟨_, u, evaluateN_doHalf _ s, hu⟩

end Sys2Proof.Machine
end

section
/-! PROOFS. The text of a format P move: it is read back, operand by operand (O60). -/

namespace Sys2Proof.Machine

/-! ## Reading a move text back (O60) -/

/-- An operand of a format P move: what the text has on one side of its comma (rule R284). -/
inductive MoveOperand where
  | reg (r : MoveReg)
  | imm (v : Word)
  | abs (addr : Word)
  | post (rn : AddrReg)

def MoveOperand.text : MoveOperand → String
  | .reg r => regText (moveName r)
  | .imm v => eaText (.immediate v)
  | .abs addr => eaText (.absolute addr)
  | .post rn => eaText (.postInc rn)

/-- The two operands of a move; the empty move has none. -/
def moveOperands : PMove → Option (MoveOperand × MoveOperand)
  | .empty => none
  | .regmove src dst => some (.reg src, .reg dst)
  | .immload imm dst => some (.imm imm, .reg dst)
  | .absread addr dst => some (.abs addr, .reg dst)
  | .abswrite src addr => some (.reg src, .abs addr)
  | .memread rn dst => some (.post rn, .reg dst)
  | .memwrite src rn => some (.reg src, .post rn)

/-- The move of two operands; only those `moveOperands` gives matter. -/
def moveOfOperands : Option (MoveOperand × MoveOperand) → PMove
  | some (.reg src, .reg dst) => .regmove src dst
  | some (.imm imm, .reg dst) => .immload imm dst
  | some (.abs addr, .reg dst) => .absread addr dst
  | some (.reg src, .abs addr) => .abswrite src addr
  | some (.post rn, .reg dst) => .memread rn dst
  | some (.reg src, .post rn) => .memwrite src rn
  | _ => .empty

theorem moveOfOperands_moveOperands (m : PMove) : moveOfOperands (moveOperands m) = m := by
  cases m <;> rfl

/-- The character of a hexadecimal digit. -/
def hexChar (d : BitVec 4) : Char := (hexDigit d).toList.headD '0'

theorem hexDigit_toList : ∀ d, (hexDigit d).toList = [hexChar d] := by decide

theorem comma_ne_hexChar : ∀ d, ',' ≠ hexChar d := by decide

theorem hex16_toList (v : Word) :
    (hex16 v).toList = ['$', hexChar (v.extractLsb' 12 4), hexChar (v.extractLsb' 8 4), hexChar (v.extractLsb' 4 4),
      hexChar (v.extractLsb' 0 4)] := by
  simp only [hex16, String.toList_append, hexDigit_toList]
  rfl

/-- The digit a character stands for; only the sixteen digits matter. -/
def readDigit (c : Char) : BitVec 4 :=
  if c.toNat < 58 then BitVec.ofNat 4 (c.toNat - 48) else BitVec.ofNat 4 (c.toNat - 55)

theorem readDigit_hexChar : ∀ d, readDigit (hexChar d) = d := by decide

/-- A word from its four digits. -/
def readHex (c3 c2 c1 c0 : Char) : Word := readDigit c3 ++ readDigit c2 ++ readDigit c1 ++ readDigit c0

theorem readHex_hexChar (v : Word) :
    readHex (hexChar (v.extractLsb' 12 4)) (hexChar (v.extractLsb' 8 4)) (hexChar (v.extractLsb' 4 4))
      (hexChar (v.extractLsb' 0 4)) = v := by
  simp only [readHex, readDigit_hexChar]
  have h8 : v.extractLsb' 12 4 ++ v.extractLsb' 8 4 = v.extractLsb' 8 8 :=
    BitVec.extractLsb'_append_extractLsb'_eq_extractLsb' rfl
  have h12 : v.extractLsb' 8 8 ++ v.extractLsb' 4 4 = v.extractLsb' 4 12 :=
    BitVec.extractLsb'_append_extractLsb'_eq_extractLsb' rfl
  have h16 : v.extractLsb' 4 12 ++ v.extractLsb' 0 4 = v.extractLsb' 0 16 :=
    BitVec.extractLsb'_append_extractLsb'_eq_extractLsb' rfl
  rw [h8, h12, h16]
  exact BitVec.extractLsb'_eq_self

/-- The operand a text stands for. -/
def readOperand : List Char → Option MoveOperand
  | ['X', '0'] => some (.reg .x0)
  | ['X', '1'] => some (.reg .x1)
  | ['Y', '0'] => some (.reg .y0)
  | ['Y', '1'] => some (.reg .y1)
  | ['A'] => some (.reg .a)
  | ['B'] => some (.reg .b)
  | ['#', '$', c3, c2, c1, c0] => some (.imm (readHex c3 c2 c1 c0))
  | ['X', ':', '$', c3, c2, c1, c0] => some (.abs (readHex c3 c2 c1 c0))
  | ['X', ':', '(', 'R', c, ')', '+'] => some (.post (addrRegOf ((readDigit c).setWidth 2)))
  | _ => none

theorem imm_toList (v : Word) : (MoveOperand.imm v).text.toList = '#' :: (hex16 v).toList := by
  simp only [MoveOperand.text, eaText, String.toList_append]
  rfl

theorem abs_toList (addr : Word) : (MoveOperand.abs addr).text.toList = 'X' :: ':' :: (hex16 addr).toList := by
  simp only [MoveOperand.text, eaText, String.toList_append]
  rfl

/-- Reading a printed operand gives it back. -/
theorem readOperand_text (o : MoveOperand) : readOperand o.text.toList = some o := by
  cases o with
  | reg r => cases r <;> rfl
  | imm v => rw [imm_toList, hex16_toList, readOperand, readHex_hexChar]
  | abs addr => rw [abs_toList, hex16_toList, readOperand, readHex_hexChar]
  | post rn => cases rn <;> rfl

theorem MoveOperand.text_injective {o o' : MoveOperand} (h : o.text.toList = o'.text.toList) : o = o' :=
  Option.some.inj ((readOperand_text o).symm.trans ((congrArg readOperand h).trans (readOperand_text o')))

theorem comma_not_mem_hex16 (v : Word) : ',' ∉ (hex16 v).toList := by
  simp [hex16_toList, comma_ne_hexChar]

theorem comma_not_mem_text (o : MoveOperand) : ',' ∉ o.text.toList := by
  cases o with
  | reg r => cases r <;> decide
  | imm v => simp [imm_toList, comma_not_mem_hex16]
  | abs addr => simp [abs_toList, comma_not_mem_hex16]
  | post rn => cases rn <;> decide

/-- The characters of a move with these operands (rule R284). -/
def operandsText : Option (MoveOperand × MoveOperand) → List Char
  | none => []
  | some (o, o') => "MOVE ".toList ++ (o.text.toList ++ ',' :: o'.text.toList)

theorem moveText_toList (m : PMove) : (moveText m).toList = operandsText (moveOperands m) := by
  have happend : ∀ a b : String,
      ("MOVE " ++ a ++ "," ++ b).toList = "MOVE ".toList ++ (a.toList ++ ',' :: b.toList) := fun a b => by
    rw [String.toList_append, String.toList_append, String.toList_append, List.append_assoc, List.append_assoc]
    rfl
  cases m with
  | empty => rfl
  | _ => exact happend _ _

/-- No operand has a comma, so that the characters give both operands back. -/
theorem operandsText_injective {p q : Option (MoveOperand × MoveOperand)} (h : operandsText p = operandsText q) :
    p = q := by
  match p, q, h with
  | none, none, _ => rfl
  | none, some _, h => cases h
  | some _, none, h => cases h
  | some (o, o'), some (u, u'), h =>
    obtain ⟨hfst, -, hsnd⟩ := (List.append_cons_inj_of_notMem (comma_not_mem_text o) (comma_not_mem_text o')).1
      (List.append_cancel_left h)
    rw [MoveOperand.text_injective hfst, MoveOperand.text_injective hsnd]

/-- Settles O60: the text gives the two operands back, and these the move. -/
theorem moveTextIsInjective : Obligations.MoveTextIsInjective := by
  intro m m' h
  have hoperands : moveOperands m = moveOperands m' := operandsText_injective
    ((moveText_toList m).symm.trans ((congrArg String.toList h).trans (moveText_toList m')))
  rw [← moveOfOperands_moveOperands m, hoperands, moveOfOperands_moveOperands]

end Sys2Proof.Machine
end
